-- ==== Sys2Proof/Word.lean ====
section
/-! DEFINITION. The words the spec treats as bits: frame bytes, 32-bit operands and data, the 40-bit command word
and the 36-bit response word. -/

namespace Sys2Proof

/-- A frame byte, and a byte of the received SPI buffer (R27 of 10_state.md, R63 of 20_memory.md). -/
abbrev Byte := BitVec 8

/-- A 32-bit word: the argument of a command, the data of a response, a Clock value
(R80 and R85 of 30_encoding.md; `W_CLK` = 32, R7 of 00_scope.md). -/
abbrev Word := BitVec 32

/-- A command word `CW` (R80 of 30_encoding.md). -/
abbrev CommandWord := BitVec 40

/-- A response word `RSP` (R85 of 30_encoding.md). -/
abbrev ResponseWord := BitVec 36

end Sys2Proof
end

