-- ==== Sys2Proof/Syntax.lean ====
section
/-! DEFINITION. The fourteen commands of the block (R83 of 30_encoding.md), one constructor per row of
spec/opcode_table.json, in the table's order. -/

namespace Sys2Proof

/-- A command. A T operand (R81, R82 of 30_encoding.md) is the whole 32-bit argument; a V operand is its low 2 or 5
bits. Which V operands are reserved (R84) is `Instr.WellFormed`. -/
inductive Instr where
  /-- `CLEAR` (R180 of 45_control_and_host.md). -/
  | clear
  /-- `START.E now` (R122 of 41_framer_edge.md). -/
  | startE (now : Word)
  /-- `DECODE.S p0` (R145 of 42_framer_sampled.md). -/
  | decodeS (p0 : Word)
  /-- `CHECK` (R161 of 43_checksum.md). -/
  | check
  /-- `CONVERT` (R170 of 44_converter.md). -/
  | convert
  /-- `SETMODEL m` (R181 of 45_control_and_host.md). -/
  | setmodel (m : BitVec 2)
  /-- `RD r` (R182 of 45_control_and_host.md). -/
  | rd (r : BitVec 5)
  /-- `STATUS k` (R183 of 45_control_and_host.md). -/
  | status (k : BitVec 2)
  /-- `POLL.L now` (R125 of 41_framer_edge.md). -/
  | pollL (now : Word)
  /-- `POLL.H now` (R126 of 41_framer_edge.md). -/
  | pollH (now : Word)
  /-- `CLS.ED d` (R114 of 40_classifier.md). -/
  | clsED (d : Word)
  /-- `CLS.SD d` (R115 of 40_classifier.md). -/
  | clsSD (d : Word)
  /-- `CLS.ES d` (R116 of 40_classifier.md). -/
  | clsES (d : Word)
  /-- `CLS.SS d` (R117 of 40_classifier.md). -/
  | clsSS (d : Word)
deriving DecidableEq, Repr

end Sys2Proof
end

