-- ==== Sys2Proof/WellFormed.lean ====
section
/-! DEFINITION. Which commands have an encoding that is not reserved (R84 d and e of 30_encoding.md): `SETMODEL 3`
and `RD` of a reserved register number are reserved. -/

namespace Sys2Proof

/-- The register numbers that are not reserved: 0 to 5, 8 to 12, 16 to 19 (R40 of 10_state.md). -/
def registerNumbers : List (BitVec 5) := [0, 1, 2, 3, 4, 5, 8, 9, 10, 11, 12, 16, 17, 18, 19]

/-- A command is well formed when its encoding is not reserved (R84 of 30_encoding.md). -/
def Instr.WellFormed : Instr → Bool
  | .clear => true
  | .startE _ => true
  | .decodeS _ => true
  | .check => true
  | .convert => true
  | .setmodel m => m != 3
  | .rd r => registerNumbers.contains r
  | .status _ => true
  | .pollL _ => true
  | .pollH _ => true
  | .clsED _ => true
  | .clsSD _ => true
  | .clsES _ => true
  | .clsSS _ => true

end Sys2Proof
end

