-- ==== Sys2Proof/Decode.lean ====
section
/-! DEFINITION. The decoder of command words, total, rejecting reserved words by name (R80 to R84 of 30_encoding.md),
and after it the encoder, written from the same tables. -/

namespace Sys2Proof

/-- Why a command word is reserved (R84 of 30_encoding.md). Safe: a reserved word is answered REJECTED, with no state
change. -/
inductive Reserved where
  /-- R84 a: the opcode is outside the fourteen. -/
  | opcode
  /-- R84 b: a Z-format command whose argument is not zero. -/
  | argumentNotZero
  /-- R84 c: a V-format command with a must-be-zero bit set. -/
  | mustBeZero
  /-- R84 d: `SETMODEL 3`. -/
  | model
  /-- R84 e: `RD` of a reserved register number. -/
  | register
deriving DecidableEq, Repr

/-- `OPC`, bits 39 to 32 of the command word (R80). -/
def opcodeOf (cw : CommandWord) : Byte := cw.extractLsb' 32 8

/-- `ARG`, bits 31 to 0 of the command word (R80). -/
def argumentOf (cw : CommandWord) : Word := cw.extractLsb' 0 32

/-- Format Z (R81): the argument must be zero. -/
def formatZ (arg : Word) (i : Instr) : Except Reserved Instr :=
  if arg = 0 then .ok i else .error .argumentNotZero

/-- Format V (R81): bits 31 to n of the argument must be zero; the operand is its low n bits. -/
def formatV (n : Nat) (arg : Word) (k : BitVec n → Except Reserved Instr) : Except Reserved Instr :=
  if arg >>> n = 0 then k (arg.setWidth n) else .error .mustBeZero

/-- `SETMODEL` of a 2-bit operand; 3 is reserved (R84 d). -/
def decodeSetmodel (m : BitVec 2) : Except Reserved Instr :=
  if m = 3 then .error .model else .ok (.setmodel m)

/-- `RD` of a 5-bit operand; a number outside the register map is reserved (R84 e). -/
def decodeRd (r : BitVec 5) : Except Reserved Instr :=
  if registerNumbers.contains r then .ok (.rd r) else .error .register

/-- The command an opcode and an argument stand for (the opcode map R83), or why the pair is reserved (R84). -/
def decodeFields (opc : Byte) (arg : Word) : Except Reserved Instr :=
  match opc.toNat with
  | 0x00 => formatZ arg .clear
  | 0x01 => .ok (.startE arg)
  | 0x02 => .ok (.decodeS arg)
  | 0x03 => formatZ arg .check
  | 0x04 => formatZ arg .convert
  | 0x05 => formatV 2 arg decodeSetmodel
  | 0x06 => formatV 5 arg decodeRd
  | 0x07 => formatV 2 arg (fun k => .ok (.status k))
  | 0x10 => .ok (.pollL arg)
  | 0x11 => .ok (.pollH arg)
  | 0x20 => .ok (.clsED arg)
  | 0x21 => .ok (.clsSD arg)
  | 0x22 => .ok (.clsES arg)
  | 0x23 => .ok (.clsSS arg)
  | _ => .error .opcode

/-- The command a word stands for, or why the word is reserved (R80 to R84). -/
def decode (cw : CommandWord) : Except Reserved Instr :=
  decodeFields (opcodeOf cw) (argumentOf cw)

/-- The opcode of a command (R83). -/
def opcode : Instr → Byte
  | .clear => 0x00
  | .startE _ => 0x01
  | .decodeS _ => 0x02
  | .check => 0x03
  | .convert => 0x04
  | .setmodel _ => 0x05
  | .rd _ => 0x06
  | .status _ => 0x07
  | .pollL _ => 0x10
  | .pollH _ => 0x11
  | .clsED _ => 0x20
  | .clsSD _ => 0x21
  | .clsES _ => 0x22
  | .clsSS _ => 0x23

/-- The argument field of a command (R81): zero, the T operand, or the V operand with zeros above it. -/
def argument : Instr → Word
  | .clear => 0
  | .startE now => now
  | .decodeS p0 => p0
  | .check => 0
  | .convert => 0
  | .setmodel m => m.setWidth 32
  | .rd r => r.setWidth 32
  | .status k => k.setWidth 32
  | .pollL now => now
  | .pollH now => now
  | .clsED d => d
  | .clsSD d => d
  | .clsES d => d
  | .clsSS d => d

/-- The command word `{OPC, ARG}` (R80, R96). -/
def commandWord (opc : Byte) (arg : Word) : CommandWord := opc ++ arg

/-- The word of a command (R80 to R83). -/
def encode (i : Instr) : CommandWord := commandWord (opcode i) (argument i)

/-- A row of the opcode map: a word `w` selects the row when `w & mask = match` (R83). -/
structure OpcodeRow where
  mnemonic : String
  mask : CommandWord
  pattern : CommandWord
deriving DecidableEq, Repr

/-- A word selects a row (R83). -/
def OpcodeRow.selects (row : OpcodeRow) (w : CommandWord) : Bool := w &&& row.mask == row.pattern

/-- The opcode map of R83 as masks and patterns, in the table's order. -/
def opcodeRows : List OpcodeRow :=
  [⟨"CLEAR", 0xFFFFFFFFFF, 0x0000000000⟩,
   ⟨"START.E", 0xFF00000000, 0x0100000000⟩,
   ⟨"DECODE.S", 0xFF00000000, 0x0200000000⟩,
   ⟨"CHECK", 0xFFFFFFFFFF, 0x0300000000⟩,
   ⟨"CONVERT", 0xFFFFFFFFFF, 0x0400000000⟩,
   ⟨"SETMODEL", 0xFFFFFFFFFC, 0x0500000000⟩,
   ⟨"RD", 0xFFFFFFFFE0, 0x0600000000⟩,
   ⟨"STATUS", 0xFFFFFFFFFC, 0x0700000000⟩,
   ⟨"POLL.L", 0xFF00000000, 0x1000000000⟩,
   ⟨"POLL.H", 0xFF00000000, 0x1100000000⟩,
   ⟨"CLS.ED", 0xFF00000000, 0x2000000000⟩,
   ⟨"CLS.SD", 0xFF00000000, 0x2100000000⟩,
   ⟨"CLS.ES", 0xFF00000000, 0x2200000000⟩,
   ⟨"CLS.SS", 0xFF00000000, 0x2300000000⟩]

/-- The mnemonic of a command (R83). -/
def mnemonic : Instr → String
  | .clear => "CLEAR"
  | .startE _ => "START.E"
  | .decodeS _ => "DECODE.S"
  | .check => "CHECK"
  | .convert => "CONVERT"
  | .setmodel _ => "SETMODEL"
  | .rd _ => "RD"
  | .status _ => "STATUS"
  | .pollL _ => "POLL.L"
  | .pollH _ => "POLL.H"
  | .clsED _ => "CLS.ED"
  | .clsSD _ => "CLS.SD"
  | .clsES _ => "CLS.ES"
  | .clsSS _ => "CLS.SS"

/-- The command word whose low `nbits` bits are those of `w`, every bit above them zero. A command is ONE 40-bit word
(R80), so bit k of `w` is bit k of `CW`. -/
def wordOfBits (nbits w : Nat) : CommandWord := BitVec.ofNat 40 (w % 2 ^ nbits)

/-- What the decoder reads from an instruction whose bits are `w`, numbered as spec/opcode_table.json numbers them. -/
def decodeTableWord (nbits w : Nat) : Option Instr :=
  match decode (wordOfBits nbits w) with
  | .ok i => some i
  | .error _ => none

end Sys2Proof
end

