-- ==== Sys2Proof/Config.lean ====
section
/-! DEFINITION. What an instance of the block fixes (the OPEN parameters of R7, 00_scope.md, under the constraints of
R8), and the free values: the values the spec leaves open, as constants without a body. -/

namespace Sys2Proof

/-- The OPEN parameters of the block (R7 of 00_scope.md), durations in microseconds. Plain data; R8 is `Params.Ok`.
`W_CLK` is 32 by decision D9 and is no field. The host's own parameters are `HostParams` of Machine/Session.lean. -/
structure Params where
  /-- `THR_E`, the zero/one threshold of the edge-driven variant. -/
  thrE : Nat
  /-- `CEIL_E`, the bit-length ceiling of the edge-driven variant. -/
  ceilE : Nat
  /-- `THR_S`, the zero/one threshold of the sampled variant. -/
  thrS : Nat
  /-- `CEIL_S`, the bit-length ceiling of the sampled variant. -/
  ceilS : Nat
  /-- `MIN_S`, the minimum plausible bit length of the sampled variant. -/
  minS : Nat
  /-- `F_S`, samples per second of the sample memory. -/
  fS : Nat
  /-- `N_S`, the number of samples of the sample memory. -/
  nS : Nat
deriving DecidableEq, Repr

/-- The constraints of R8 (00_scope.md) on a configuration. -/
abbrev Params.Ok (c : Params) : Prop :=
  (0 < c.thrE ∧ c.thrE < c.ceilE ∧ c.ceilE < 2 ^ 32) ∧ (c.minS ≤ c.thrS ∧ c.thrS < c.ceilS) ∧ 0 < c.fS ∧ 0 < c.nS

namespace Config

/-- The reference configuration `REFCFG` of R7 (00_scope.md), the one the spec's test vectors use. DESIGN CHOICE
(unsafe, log 1): `State.reset` holds it; every statement about a step holds for every configuration. -/
def refcfg : Params where
  thrE := 30
  ceilE := 100
  thrS := 28
  ceilS := 120
  minS := 10
  fS := 2000000
  nS := 12000

/-- FREE VALUE (R41 and R72, U7; log 8): what byte `j` of the sample buffer holds before the first transfer after
the `epoch`-th `rst`. Any bits; nothing constrains it. -/
opaque unwrittenByte : (epoch j : Nat) → Byte

/-- FREE VALUE (R172, U3; log 9): the sign of the float zero that `TEMPF` shows for `TEMP10` = 0 after the
`convs`-th conversion. Either sign; nothing constrains it. -/
opaque tempfZeroSign : (convs : Nat) → Bool

/-- FREE VALUE (R198, U4; log 16): what the host's `humidity(session)` returns after its `n`-th read when that read
failed. -/
opaque invalidHumidity : (n : Nat) → Word

/-- FREE VALUE (R198, U4; log 16): what the host's `temperature(session)` returns after its `n`-th read when that
read failed. -/
opaque invalidTemperature : (n : Nat) → Word

end Config

end Sys2Proof
end

