-- ==== Sys2Proof/Machine/State.lean ====
section
/-! DEFINITION. The state of the block as plain data (R20 of 10_state.md), its interface, the reasons a step can stop,
and the state after reset (R41). -/

namespace Sys2Proof.Machine

/-- The stages of the decode pipeline held by `ST` (R21 of 10_state.md). Encodings 6 and 7 are never produced. -/
inductive Stage where
  /-- `IDLE`: no decode in progress and no frame held. -/
  | idle
  /-- `RUN`: an edge-driven decode is in progress. -/
  | run
  /-- `FRAMED`: a complete frame is held, its checksum not verified. -/
  | framed
  /-- `ACCEPTED`: the frame's checksum has been verified. -/
  | accepted
  /-- `CONVERTED`: `HUM10` and `TEMP10` hold the Reading of the frame. -/
  | converted
  /-- `FAILED`: the last attempt ended in an error and its frame was discarded. -/
  | failed
deriving DecidableEq, Repr

/-- The error kinds (R88 of 30_encoding.md, R210 of 60_exceptions.md). `ERR` never holds `ioError` (R22). -/
inductive ErrorKind where
  | none
  | timeout
  | checksumMismatch
  | ioError
deriving DecidableEq, Repr

/-- The sensor models (R87 of 30_encoding.md); code 3 is reserved and never held (R23 of 10_state.md). -/
inductive SensorModel where
  /-- `Unknown/AutoDetect`, assembler name `AUTO`. -/
  | auto
  | dht11
  /-- `DHT22`, and so AM2302 and RHT03 (R2 of 00_scope.md). -/
  | dht22
deriving DecidableEq, Repr

/-- The classifier's results (R89 of 30_encoding.md). -/
inductive Symbol where
  | zero
  | one
  | timeout
deriving DecidableEq, Repr

/-- The two variants of the classifier's constants (R110 of 40_classifier.md): edge-driven and sampled. -/
inductive Variant where
  | edge
  | sampled
deriving DecidableEq, Repr

/-- The logical role of a pulse (R110 of 40_classifier.md). -/
inductive Role where
  | data
  | start
deriving DecidableEq, Repr

/-- The acknowledgement of a response (R85 of 30_encoding.md); code 3 is never produced. -/
inductive Ack where
  | done
  | pending
  | rejected
deriving DecidableEq, Repr

/-- The registers of the register map (R40 of 10_state.md), the two float views among them (R30). -/
inductive Reg where
  | st
  | err
  | model
  | idx
  | nb
  | t0
  | b0
  | b1
  | b2
  | b3
  | b4
  | hum10
  | temp10
  | humf
  | tempf
deriving DecidableEq, Repr

/-- The raw frame `B[0..4]` (R27 of 10_state.md, R91 of 30_encoding.md): humidity high, humidity low, temperature
high, temperature low, checksum. -/
structure RawFrame where
  b0 : Byte
  b1 : Byte
  b2 : Byte
  b3 : Byte
  b4 : Byte
deriving DecidableEq, Repr

/-- What the outside presents to the block between two commands: a command word (R80 of 30_encoding.md), an assertion
of `rst` (R240 of 70_reset_and_hazards.md), or a completed SPI transfer whose received buffer becomes the sample
memory (R72 of 20_memory.md). -/
inductive Input where
  | command (cw : CommandWord)
  | reset
  | transfer (buffer : List Byte)
deriving DecidableEq, Repr

/-- The sample memory as the received bytes that have been written, addresses strictly rising (R63 of 20_memory.md).
An unlisted byte has no value here; the samples it holds are free values (R72; log 7, log 8). -/
abbrev Memory := List Host.Cell

/-- Why a step stops. No command raises a fault (R62 of 20_memory.md: there is no access fault). -/
inductive Fault where
  /-- Raised by the input `transfer` when its buffer does not have the fixed length of the sample memory (R228 of
  60_exceptions.md, R63 of 20_memory.md): the transport broke its contract and the spec gives `S` no contents then.
  Safe (log 12). -/
  | transferLength
deriving DecidableEq, Repr

/-- Why an instruction has no meaning. REJECTED (R86) is no refusal: it is a response, and a next state (log 4). -/
inductive Refusal where
  /-- Raised by an arm of `exec` whose instruction has no meaning yet; no arm is of this kind. Safe. -/
  | notModelled (mnemonic : String)
deriving DecidableEq, Repr

/-- The state: the elements of R20 (10_state.md), the sample memory (R60, R61 of 20_memory.md), the ports (R80, R85 of
30_encoding.md, R240), the configuration of the instance (R7 of 00_scope.md; log 1), and two counters of the model's
own (log 11). -/
structure State where
  /-- The configuration: constants of the instance, written by no step. -/
  cfg : Params
  /-- `ST` (R21). -/
  st : Stage
  /-- `ERR` (R22). -/
  err : ErrorKind
  /-- `MODEL` (R23). -/
  model : SensorModel
  /-- `IDX`, the edge index, signed (R24). -/
  idx : BitVec 8
  /-- `NB`, the count of data bits shifted in (R25). -/
  nb : BitVec 6
  /-- `T0`, the Clock value at the start of the current phase (R26). -/
  t0 : Word
  /-- `B[0]` to `B[4]` (R27). -/
  b : RawFrame
  /-- `HUM10`, unsigned tenths of a percent (R28). -/
  hum10 : BitVec 16
  /-- `TEMP10`, two's complement tenths of a degree (R29). -/
  temp10 : BitVec 16
  /-- The sample memory `S` (R61, R63). -/
  mem : Memory
  /-- The inputs still to come, oldest first (R80, R240, R72; log 2). -/
  port : List Input
  /-- The response port: the word of the last response (R85; log 3). -/
  rsp : Option ResponseWord
  /-- The MODEL's own: how many `rst` since `State.reset` (log 11). -/
  epoch : Nat
  /-- The MODEL's own: how many conversions have completed (log 11). -/
  convs : Nat
deriving DecidableEq, Repr

/-- The frame of five zero bytes. -/
def RawFrame.zero : RawFrame := ⟨0, 0, 0, 0, 0⟩

/-- The state after reset (R41 of 10_state.md, R241 of 70_reset_and_hazards.md) of an instance with configuration
`c`. `B`, `HUM10`, `TEMP10` are unspecified and unreadable after reset: 0 is a DESIGN CHOICE (log 5, log 6). -/
def State.resetWith (c : Params) : State where
  cfg := c
  st := .idle
  err := .none
  model := .auto
  idx := 0
  nb := 0
  t0 := 0
  b := RawFrame.zero
  hum10 := 0
  temp10 := 0
  mem := []
  port := []
  rsp := Option.none
  epoch := 0
  convs := 0

/-- The machine right after reset, with the reference configuration (DESIGN CHOICE, log 1). -/
def State.reset : State := State.resetWith Config.refcfg

end Sys2Proof.Machine
end

