-- ==== Sys2Proof/Machine/Operands.lean ====
section
/-! DEFINITION. Codes and layouts of what commands take and answer: the codes of the enumerations, the register map,
the response word, the float rendering of tenths, and the fields of the raw frame. -/

namespace Sys2Proof.Machine

/-- The 3-bit code of a stage (R21 of 10_state.md). -/
def stageCode : Stage → BitVec 3
  | .idle => 0
  | .run => 1
  | .framed => 2
  | .accepted => 3
  | .converted => 4
  | .failed => 5

/-- The 2-bit code of an error kind (R88 of 30_encoding.md). -/
def errorCode : ErrorKind → BitVec 2
  | .none => 0
  | .timeout => 1
  | .checksumMismatch => 2
  | .ioError => 3

/-- The error kind of a 2-bit code, all four legal (R88). -/
def errorOfCode (k : BitVec 2) : ErrorKind :=
  if k = 0 then .none else if k = 1 then .timeout else if k = 2 then .checksumMismatch else .ioError

/-- The 2-bit code of a sensor model (R87 of 30_encoding.md). -/
def modelCode : SensorModel → BitVec 2
  | .auto => 0
  | .dht11 => 1
  | .dht22 => 2

/-- The sensor model of a 2-bit code; 3 is reserved (R87, R84 d). -/
def modelOfCode (m : BitVec 2) : Option SensorModel :=
  if m = 0 then some .auto else if m = 1 then some .dht11 else if m = 2 then some .dht22 else Option.none

/-- The 2-bit code of a symbol (R89 of 30_encoding.md). -/
def symbolCode : Symbol → BitVec 2
  | .zero => 0
  | .one => 1
  | .timeout => 2

/-- The 2-bit code of an acknowledgement (R85 of 30_encoding.md). -/
def ackCode : Ack → BitVec 2
  | .done => 0
  | .pending => 1
  | .rejected => 2

/-- The response word: `ack` in bits 35 and 34, `err` in bits 33 and 32, `data` in bits 31 to 0 (R85). -/
def responseWord (a : Ack) (e : ErrorKind) (data : Word) : ResponseWord := ackCode a ++ errorCode e ++ data

/-- `RSP[35:34]` (R85). -/
def responseAck (w : ResponseWord) : BitVec 2 := w.extractLsb' 34 2

/-- `RSP[33:32]` (R85). -/
def responseErr (w : ResponseWord) : BitVec 2 := w.extractLsb' 32 2

/-- `RSP[31:0]` (R85). -/
def responseData (w : ResponseWord) : Word := w.extractLsb' 0 32

/-- The register of a register number; the other numbers are reserved (R40 of 10_state.md). -/
def regOfNumber (r : BitVec 5) : Option Reg :=
  match r.toNat with
  | 0 => some .st
  | 1 => some .err
  | 2 => some .model
  | 3 => some .idx
  | 4 => some .nb
  | 5 => some .t0
  | 8 => some .b0
  | 9 => some .b1
  | 10 => some .b2
  | 11 => some .b3
  | 12 => some .b4
  | 16 => some .hum10
  | 17 => some .temp10
  | 18 => some .humf
  | 19 => some .tempf
  | _ => Option.none

/-- The number of a register (R40 of 10_state.md). -/
def regNumber : Reg → BitVec 5
  | .st => 0
  | .err => 1
  | .model => 2
  | .idx => 3
  | .nb => 4
  | .t0 => 5
  | .b0 => 8
  | .b1 => 9
  | .b2 => 10
  | .b3 => 11
  | .b4 => 12
  | .hum10 => 16
  | .temp10 => 17
  | .humf => 18
  | .tempf => 19

/-- `n / d` rounded to the nearest natural number, ties to the even one. -/
def roundHalfEven (n d : Nat) : Nat :=
  if 2 * (n % d) < d then n / d
  else if d < 2 * (n % d) then n / d + 1
  else n / d + n / d % 2

/-- The binary32 encoding of `m / 10` for a magnitude of `m` tenths, `m` < 2^16 (R171 of 44_converter.md; layout from
general knowledge, G3, log 19). With `l` the floor of log2 (16 m / 10) the exponent is `l - 4`, the 24-bit
significand is `m * 2^(27-l) / 10` rounded, and its leading 1 (and a carry out of the rounding) adds into the
exponent field. -/
def binary32OfTenths (m : Nat) : Word :=
  if m = 0 then 0
  else
    let l := Nat.log2 (16 * m / 10)
    BitVec.ofNat 32 ((l + 122) * 2 ^ 23 + roundHalfEven (m * 2 ^ (27 - l)) 10)

/-- The sign bit of a binary32 word. -/
def binary32Sign (negative : Bool) : Word := if negative then 0x80000000 else 0

/-- `HUMF = toF(HUM10 / 10)` (R30 of 10_state.md). -/
def humf (hum10 : BitVec 16) : Word := binary32OfTenths hum10.toNat

/-- `TEMPF = toF(TEMP10 / 10)` (R30); for `TEMP10` = 0 the sign of the zero is `zeroSign`, which the spec leaves open
(R172 of 44_converter.md, R182 of 45_control_and_host.md; log 9, log 10). -/
def tempf (zeroSign : Bool) (temp10 : BitVec 16) : Word :=
  if temp10 = 0 then binary32Sign zeroSign
  else binary32Sign (decide (temp10.toInt < 0)) ||| binary32OfTenths temp10.toInt.natAbs

/-- The humidity halfword `B[0]:B[1]`, big-endian (R64 of 20_memory.md). -/
def humidityHalfword (f : RawFrame) : BitVec 16 := f.b0 ++ f.b1

/-- The temperature halfword `B[2]:B[3]`, big-endian (R64 of 20_memory.md). -/
def temperatureHalfword (f : RawFrame) : BitVec 16 := f.b2 ++ f.b3

/-- A received bit shifted into a byte at the least significant end: `((b << 1) | bit) mod 256` (R65 of
20_memory.md). -/
def shiftIn (b : Byte) (bit : Bool) : Byte := (b <<< 1) ||| (if bit then 1 else 0)

/-- A received bit shifted into byte `B[k]` (R27 of 10_state.md). There is no byte past `B[4]`; no reachable state
asks for one (log 15). -/
def shiftIntoByte (f : RawFrame) (k : Nat) (bit : Bool) : RawFrame :=
  match k with
  | 0 => { f with b0 := shiftIn f.b0 bit }
  | 1 => { f with b1 := shiftIn f.b1 bit }
  | 2 => { f with b2 := shiftIn f.b2 bit }
  | 3 => { f with b3 := shiftIn f.b3 bit }
  | 4 => { f with b4 := shiftIn f.b4 bit }
  | _ => f

/-- The data bit received when `nb` bits are held goes to `B[NB div 8]` (R25 of 10_state.md, R127 of
41_framer_edge.md). -/
def shiftBit (f : RawFrame) (nb : BitVec 6) (bit : Bool) : RawFrame := shiftIntoByte f (nb.toNat / 8) bit

/-- The status string of an error kind (R95 of 30_encoding.md, R199 of 45_control_and_host.md). -/
def statusString : ErrorKind → String
  | .none => "OK"
  | .timeout => "TIMEOUT"
  | .checksumMismatch => "CHECKSUM"
  | .ioError => "OTHER"

end Sys2Proof.Machine
end

