-- ==== Sys2Proof/Machine/Flags.lean ====
section
/-! DEFINITION. The tests the commands make: the age of a phase and its ceiling, the level of a phase, the classifier,
the checksum, and which register is readable in which stage. -/

namespace Sys2Proof.Machine

/-- `THR(v)` (R110 of 40_classifier.md). -/
def threshold (c : Params) : Variant → Nat
  | .edge => c.thrE
  | .sampled => c.thrS

/-- `CEIL(v)` (R110 of 40_classifier.md). -/
def ceiling (c : Params) : Variant → Nat
  | .edge => c.ceilE
  | .sampled => c.ceilS

/-- `classify(v, role, d)` (R111 of 40_classifier.md). The role selects nothing (R113). -/
def classify (c : Params) (v : Variant) (_role : Role) (d : Nat) : Symbol :=
  if ceiling c v < d then .timeout
  else if threshold c v < d then .one
  else .zero

/-- `age = (now - T0) mod 2^32` (R123 of 41_framer_edge.md). -/
def age (now t0 : Word) : Nat := (now - t0).toNat

/-- The level the line holds during phase `i`: `i & 1` on the two's complement form (R121 of 41_framer_edge.md,
R10 of 00_scope.md). -/
def phaseLevel (i : BitVec 8) : Bool := i.getLsbD 0

/-- A phase whose age is a data bit: `i >= 1` and `i & 1 = 1` (R124 of 41_framer_edge.md). -/
def isDataPhase (i : BitVec 8) : Bool := decide (1 ≤ i.toInt) && phaseLevel i

/-- `(B[0] + B[1] + B[2] + B[3]) mod 256`: four 8-bit additions with the carries dropped (R160 of 43_checksum.md). -/
def checksum (f : RawFrame) : Byte := f.b0 + f.b1 + f.b2 + f.b3

/-- The frame is valid (R160). -/
def checksumHolds (f : RawFrame) : Bool := checksum f == f.b4

/-- A frame is held and may be read: `FRAMED`, `ACCEPTED`, `CONVERTED` (R35 of 10_state.md). -/
def frameReadable : Stage → Bool
  | .framed => true
  | .accepted => true
  | .converted => true
  | .idle => false
  | .run => false
  | .failed => false

/-- The register is readable by `RD` in the stage (the table of R35 of 10_state.md). -/
def readable (r : Reg) (st : Stage) : Bool :=
  match r with
  | .st => st != .run
  | .err => st != .run
  | .model => st != .run
  | .idx => st != .run
  | .nb => st != .run
  | .t0 => st != .run
  | .b0 => frameReadable st
  | .b1 => frameReadable st
  | .b2 => frameReadable st
  | .b3 => frameReadable st
  | .b4 => frameReadable st
  | .hum10 => st == .converted
  | .temp10 => st == .converted
  | .humf => st == .converted
  | .tempf => st == .converted

end Sys2Proof.Machine
end

