-- ==== Sys2Proof/Machine/Ops.lean ====
section
/-! DEFINITION. The named operations the meanings share: reading a sample, the response, REJECTED, error entry, reading
a register, reset and the capture. -/

namespace Sys2Proof.Machine

/-- The canonical form of the sample memory: addresses strictly rising. An unlisted byte has no value, so no entry can
equal it (log 7). -/
abbrev Memory.wf (m : Memory) : Prop := (m.map Prod.fst).Pairwise (· < ·)

/-- The byte of the buffer at address `j`, if a transfer has written it. -/
def readByte (m : Memory) (j : Nat) : Option Byte :=
  match m with
  | [] => Option.none
  | (a, v) :: rest => if a = j then some v else readByte rest j

/-- The received buffer as memory cells from address `j` on (R63 of 20_memory.md). -/
def cellsFrom (j : Nat) (buffer : List Byte) : Memory :=
  match buffer with
  | [] => []
  | v :: rest => (j, v) :: cellsFrom (j + 1) rest

/-- How many bytes the sample memory takes: `N_S / 8` (R63, R204), rounded up (log 7). -/
def bufferBytes (c : Params) : Nat := (c.nS + 7) / 8

/-- The byte of the buffer at address `j`; before the first transfer after reset it is a free value (R72, U7). -/
def sampleByte (s : State) (j : Nat) : Byte :=
  (readByte s.mem j).getD (Config.unwrittenByte s.epoch j)

/-- `MemRead(a, 1)`, the sample `S[a]` (R61 of 20_memory.md): byte `a / 8`, bit 7 the earliest (R63). -/
def memRead (s : State) (a : Nat) : Bool := (sampleByte s (a / 8)).getLsbD (7 - a % 8)

/-- `respond(ack, err, data)` (R11 of 00_scope.md, R85 of 30_encoding.md). -/
def respond (a : Ack) (e : ErrorKind) (data : Word) (s : State) : State :=
  { s with rsp := some (responseWord a e data) }

/-- REJECTED (R86 of 30_encoding.md): no state changes; `err` is the unchanged `ERR` and `data` is 0. -/
def reject (s : State) : State := respond .rejected s.err 0 s

/-- Error entry `raise K(info)` (R216 of 60_exceptions.md). Nothing else is written; there is no return from it but a
new attempt or `CLEAR` (R219). -/
def raiseError (k : ErrorKind) (info : Word) (s : State) : State :=
  respond .done k info { s with err := k, st := .failed }

/-- The 32-bit value `RD` returns for a register (R182 of 45_control_and_host.md, R40 of 10_state.md). -/
def readReg (r : Reg) (s : State) : Word :=
  match r with
  | .st => (stageCode s.st).setWidth 32
  | .err => (errorCode s.err).setWidth 32
  | .model => (modelCode s.model).setWidth 32
  | .idx => s.idx.signExtend 32
  | .nb => s.nb.setWidth 32
  | .t0 => s.t0
  | .b0 => s.b.b0.setWidth 32
  | .b1 => s.b.b1.setWidth 32
  | .b2 => s.b.b2.setWidth 32
  | .b3 => s.b.b3.setWidth 32
  | .b4 => s.b.b4.setWidth 32
  | .hum10 => s.hum10.setWidth 32
  | .temp10 => s.temp10.signExtend 32
  | .humf => humf s.hum10
  | .tempf => tempf (Config.tempfZeroSign s.convs) s.temp10

/-- A classification command: every stage but `RUN`; the symbol is a value in `data`, not an error (section 2 of
40_classifier.md). -/
def classification (v : Variant) (role : Role) (d : Word) (s : State) : State :=
  if s.st = .run then reject s
  else respond .done s.err ((symbolCode (classify s.cfg v role d.toNat)).setWidth 32) s

/-- `rst` (R240, R241 of 70_reset_and_hazards.md): every element at its reset value, the configuration untouched, no
response; the sample memory is unspecified anew (R41; log 11), the inputs still to come stay. -/
def applyReset (s : State) : State :=
  { State.resetWith s.cfg with port := s.port, epoch := s.epoch + 1, convs := s.convs }

/-- A completed SPI transfer: the received buffer is `S` (R72 of 20_memory.md). A buffer of another length than the
fixed one breaks the transport's contract (R228 of 60_exceptions.md; log 12). -/
def applyTransfer (buffer : List Byte) (s : State) : Host.Outcome State Fault Refusal :=
  if buffer.length = bufferBytes s.cfg then .next { s with mem := cellsFrom 0 buffer }
  else .fault .transferLength

/-- The oldest input taken from the port (R80 of 30_encoding.md). -/
def takeInput (s : State) : State := { s with port := s.port.tail }

end Sys2Proof.Machine
end

