-- ==== Sys2Proof/Machine/Checksum.lean ====
section
/-! DEFINITION. The checksum validator: `CHECK` (43_checksum.md). -/

namespace Sys2Proof.Machine

/-- `CHECK` (R161 of 43_checksum.md). -/
def execCheck (s : State) : Host.Outcome State Fault Refusal :=
  .next <|
    if s.st ≠ .framed then reject s
    else if checksumHolds s.b then respond .done .none 0 { s with st := .accepted }
    else raiseError .checksumMismatch 0 s

end Sys2Proof.Machine
end

