-- ==== Sys2Proof/Machine/Classifier.lean ====
section
/-! DEFINITION. The four classification commands (40_classifier.md). -/

namespace Sys2Proof.Machine

/-- `CLS.ED d` (R114 of 40_classifier.md). -/
def execClsED (d : Word) (s : State) : Host.Outcome State Fault Refusal := .next (classification .edge .data d s)

/-- `CLS.SD d` (R115 of 40_classifier.md). The minimum `MIN_S` is not applied (R118). -/
def execClsSD (d : Word) (s : State) : Host.Outcome State Fault Refusal := .next (classification .sampled .data d s)

/-- `CLS.ES d` (R116 of 40_classifier.md). -/
def execClsES (d : Word) (s : State) : Host.Outcome State Fault Refusal := .next (classification .edge .start d s)

/-- `CLS.SS d` (R117 of 40_classifier.md). -/
def execClsSS (d : Word) (s : State) : Host.Outcome State Fault Refusal := .next (classification .sampled .start d s)

end Sys2Proof.Machine
end

