-- ==== Sys2Proof/Machine/Control.lean ====
section
/-! DEFINITION. The control commands: `CLEAR`, `SETMODEL`, `RD`, `STATUS` (45_control_and_host.md). -/

namespace Sys2Proof.Machine

/-- `CLEAR` (R180 of 45_control_and_host.md). -/
def execClear (s : State) : Host.Outcome State Fault Refusal :=
  .next <| if s.st = .run then reject s else respond .done .none 0 { s with st := .idle, err := .none }

/-- `SETMODEL m` (R181 of 45_control_and_host.md); m = 3 is reserved and REJECTED in every stage (R84 d). -/
def execSetmodel (m : BitVec 2) (s : State) : Host.Outcome State Fault Refusal :=
  .next <|
    match modelOfCode m with
    | Option.none => reject s
    | some model =>
      if s.st = .run ∨ s.st = .converted then reject s
      else respond .done s.err (m.setWidth 32) { s with model := model }

/-- `RD r` (R182 of 45_control_and_host.md); a reserved number is REJECTED (R84 e), and so is a register that the
stage does not let be read (R35 of 10_state.md). -/
def execRd (r : BitVec 5) (s : State) : Host.Outcome State Fault Refusal :=
  .next <|
    match regOfNumber r with
    | Option.none => reject s
    | some reg => if readable reg s.st then respond .done s.err (readReg reg s) s else reject s

/-- `STATUS k` (R183 of 45_control_and_host.md). -/
def execStatus (k : BitVec 2) (s : State) : Host.Outcome State Fault Refusal :=
  .next <| if s.st = .run then reject s else respond .done s.err (k.setWidth 32) s

end Sys2Proof.Machine
end

