-- ==== Sys2Proof/Machine/Converter.lean ====
section
/-! DEFINITION. The unit converter: `CONVERT` (44_converter.md). -/

namespace Sys2Proof.Machine

/-- Sign and magnitude to two's complement: with the top bit set, minus the other 15 bits (R169 of
44_converter.md). -/
def signMagnitude (t : BitVec 16) : BitVec 16 := if t.msb then -(t &&& 0x7FFF) else t

/-- Ten times a byte, in 16 bits (R167 of 44_converter.md). -/
def tenTimes (b : Byte) : BitVec 16 := b.setWidth 16 * 10

/-- The Reading of a frame under a model, `HUM10` and `TEMP10` (R167 to R169 of 44_converter.md); under
`Unknown/AutoDetect` there is none (R174). -/
def conversion (m : SensorModel) (f : RawFrame) : Option (BitVec 16 × BitVec 16) :=
  match m with
  | .auto => Option.none
  | .dht11 => some (tenTimes f.b0, tenTimes f.b2)
  | .dht22 => some (humidityHalfword f, signMagnitude (temperatureHalfword f))

/-- The converted Reading written, with the response of R170. Each conversion draws a fresh sign for a float zero
(R172; log 9, log 11). -/
def writeReading (hum temp : BitVec 16) (s : State) : State :=
  respond .done .none (hum ++ temp)
    { s with hum10 := hum, temp10 := temp, st := .converted, convs := s.convs + 1 }

/-- `CONVERT` (R170, R174 of 44_converter.md). -/
def execConvert (s : State) : Host.Outcome State Fault Refusal :=
  .next <|
    if s.st ≠ .accepted then reject s
    else
      match conversion s.model s.b with
      | Option.none => reject s
      | some r => writeReading r.1 r.2 s

end Sys2Proof.Machine
end

