-- ==== Sys2Proof/Machine/FramerEdge.lean ====
section
/-! DEFINITION. The edge-driven framer: `START.E`, `POLL.L`, `POLL.H` (41_framer_edge.md). -/

namespace Sys2Proof.Machine

/-- `START.E now` (R122 of 41_framer_edge.md). -/
def execStartE (now : Word) (s : State) : Host.Outcome State Fault Refusal :=
  .next <|
    if s.st = .run then reject s
    else respond .done .none 0
      { s with st := .run, err := .none, idx := -3, nb := 0, b := RawFrame.zero, t0 := now }

/-- The data bit of the phase that ends at this poll, shifted in when the phase is a data phase (R124, R127 of
41_framer_edge.md). -/
def shiftPhaseBit (now : Word) (s : State) : State :=
  if isDataPhase s.idx then
    { s with
      b := shiftBit s.b s.nb (classify s.cfg .edge .data (age now s.t0) == .one)
      nb := s.nb + 1 }
  else s

/-- The awaited edge is observed: the phase ends and the next one starts at the same instant; edge 79 is the last
(R124, R129 of 41_framer_edge.md). -/
def observeEdge (now : Word) (s : State) : State :=
  let s1 := { shiftPhaseBit now s with idx := s.idx + 1, t0 := now }
  if s.idx = 79 then respond .done .none 80 { s1 with st := .framed }
  else respond .pending .none ((s.idx + 1).signExtend 32) s1

/-- `poll(v, now)`, one pass of the bounded spin: the age is tested before the level (R124 of 41_framer_edge.md). -/
def poll (level : Bool) (now : Word) (s : State) : State :=
  if s.st ≠ .run then reject s
  else if s.cfg.ceilE < age now s.t0 then raiseError .timeout (s.idx.signExtend 32) s
  else if level = phaseLevel s.idx then respond .pending .none (s.idx.signExtend 32) s
  else observeEdge now s

/-- `POLL.L now` (R125 of 41_framer_edge.md). -/
def execPollL (now : Word) (s : State) : Host.Outcome State Fault Refusal := .next (poll false now s)

/-- `POLL.H now` (R126 of 41_framer_edge.md). -/
def execPollH (now : Word) (s : State) : Host.Outcome State Fault Refusal := .next (poll true now s)

end Sys2Proof.Machine
end

