-- ==== Sys2Proof/Machine/FramerSampled.lean ====
section
/-! DEFINITION. The sampled run-length framer: `DECODE.S` (42_framer_sampled.md). -/

namespace Sys2Proof.Machine

/-- The scan of `nextRun`: the first index from `q` on, among the `left` samples up to the end of the memory, whose
level differs from `level` (R141 of 42_framer_sampled.md). -/
def scanRun (s : State) (level : Bool) (left q : Nat) : Option Nat :=
  match left with
  | 0 => Option.none
  | left + 1 => if memRead s q = level then scanRun s level left (q + 1) else some q

/-- `nextRun(p)` (R141 of 42_framer_sampled.md): where the next run begins, or none when the memory ends first. Only
samples below `N_S` are read (R62 of 20_memory.md). -/
def nextRun (s : State) (p : Nat) : Option Nat := scanRun s (memRead s p) (s.cfg.nS - (p + 1)) (p + 1)

/-- `n` runs passed over untested (R143 of 42_framer_sampled.md). -/
def skipRuns (s : State) (n p : Nat) : Option Nat :=
  match n with
  | 0 => some p
  | n + 1 => (nextRun s p).bind (skipRuns s n)

/-- The duration of a run of `len` samples in microseconds, rounded down (R142 of 42_framer_sampled.md). -/
def runDuration (c : Params) (len : Nat) : Nat := len * 1000000 / c.fS

/-- The measured duration of a data run is plausible: neither below `MIN_S` nor above `CEIL_S` (R144). -/
def plausible (c : Params) (d : Nat) : Bool := decide (c.minS ≤ d) && decide (d ≤ c.ceilS)

/-- What the scan has decoded: the frame so far, the count of its bits, and whether it went on to the end. -/
structure Capture where
  frame : RawFrame
  nb : BitVec 6
  complete : Bool
deriving DecidableEq, Repr

/-- `n` data bits from position `p` on: skip the bit start, measure the next run, shift the bit in (R144, R145 of
42_framer_sampled.md). -/
def decodeBits (s : State) (n p : Nat) (frame : RawFrame) (nb : BitVec 6) : Capture :=
  match n with
  | 0 => ⟨frame, nb, true⟩
  | n + 1 =>
    match nextRun s p with
    | Option.none => ⟨frame, nb, false⟩
    | some q =>
      match nextRun s q with
      | Option.none => ⟨frame, nb, false⟩
      | some r =>
        let d := runDuration s.cfg (r - q)
        if plausible s.cfg d then
          decodeBits s n r (shiftBit frame nb (classify s.cfg .sampled .data d == .one)) (nb + 1)
        else ⟨frame, nb, false⟩

/-- The whole scan from `p0`: four framing runs, then 40 data bits (R145, R146 of 42_framer_sampled.md). -/
def decodeCapture (s : State) (p0 : Nat) : Capture :=
  if p0 < s.cfg.nS then
    match skipRuns s 4 p0 with
    | Option.none => ⟨RawFrame.zero, 0, false⟩
    | some p => decodeBits s 40 p RawFrame.zero 0
  else ⟨RawFrame.zero, 0, false⟩

/-- The end of `DECODE.S`: the writes of the scan, then `FRAMED`, or error entry with the count of bits (R145, R146). -/
def finishDecode (c : Capture) (s : State) : State :=
  let s1 := { s with err := .none, nb := c.nb, b := c.frame }
  if c.complete then respond .done .none 40 { s1 with st := .framed }
  else raiseError .timeout (c.nb.setWidth 32) s1

/-- `DECODE.S p0` (R145 of 42_framer_sampled.md). -/
def execDecodeS (p0 : Word) (s : State) : Host.Outcome State Fault Refusal :=
  .next <| if s.st = .run then reject s else finishDecode (decodeCapture s p0.toNat) s

end Sys2Proof.Machine
end

