-- ==== Sys2Proof/Machine/Dispatch.lean ====
section
/-! DEFINITION. One arm per command: each calls its meaning. -/

namespace Sys2Proof.Machine

def exec (i : Instr) (s : State) : Host.Outcome State Fault Refusal :=
  match i with
  | .clear => Sys2Proof.Machine.execClear s
  | .startE now => Sys2Proof.Machine.execStartE now s
  | .decodeS p0 => Sys2Proof.Machine.execDecodeS p0 s
  | .check => Sys2Proof.Machine.execCheck s
  | .convert => Sys2Proof.Machine.execConvert s
  | .setmodel m => Sys2Proof.Machine.execSetmodel m s
  | .rd r => Sys2Proof.Machine.execRd r s
  | .status k => Sys2Proof.Machine.execStatus k s
  | .pollL now => Sys2Proof.Machine.execPollL now s
  | .pollH now => Sys2Proof.Machine.execPollH now s
  | .clsED d => Sys2Proof.Machine.execClsED d s
  | .clsSD d => Sys2Proof.Machine.execClsSD d s
  | .clsES d => Sys2Proof.Machine.execClsES d s
  | .clsSS d => Sys2Proof.Machine.execClsSS d s

end Sys2Proof.Machine
end

