-- ==== Sys2Proof/Machine/Step.lean ====
section
/-! DEFINITION. One step: the oldest input of the port is taken and acted on (R80, R84 of 30_encoding.md, R240, R242 of
70_reset_and_hazards.md, R72 of 20_memory.md). -/

namespace Sys2Proof.Machine

/-- One step of the machine. With no input pending the block waits and nothing changes (R242; log 13). A command word
runs the command it stands for, or, when it is reserved, is answered REJECTED (R84). -/
def step (s : State) : Host.Outcome State Fault Refusal :=
  match s.port with
  | [] => .next s
  | .reset :: _ => .next (applyReset (takeInput s))
  | .transfer buffer :: _ => applyTransfer buffer (takeInput s)
  | .command cw :: _ =>
    match decode cw with
    | .ok i => exec i (takeInput s)
    | .error _ => .next (reject (takeInput s))

/-- The same state with the command of the bits `w` at the head of the port, so that the very next step runs it
(log 2). -/
def State.withFetchWord (s : State) (nbits w : Nat) : State :=
  { s with port := .command (wordOfBits nbits w) :: s.port }

end Sys2Proof.Machine
end

