-- ==== Sys2Proof/Machine/Assembler.lean ====
section
/-! DEFINITION. The assembler syntax and the pseudo-instructions `PHASE` and `DBIT` (R96, R97 of 30_encoding.md), over
lists of characters. Blanks, tabs and commas separate the words of a line; names are upper case (log 22). -/

namespace Sys2Proof.Machine

/-- The words of a line; `;` starts a comment to the end of the line (R96). -/
def lineWords (current line : List Char) : List (List Char) :=
  let flush := if current = [] then [] else [current.reverse]
  match line with
  | [] => flush
  | c :: rest =>
    if c = ';' then flush
    else if c = ' ' ∨ c = '\t' ∨ c = ',' then flush ++ lineWords [] rest
    else lineWords (c :: current) rest

/-- The value of a digit in a base up to 16. -/
def digitValue (base : Nat) (c : Char) : Option Nat :=
  let v :=
    if '0' ≤ c ∧ c ≤ '9' then c.toNat - 48
    else if 'a' ≤ c ∧ c ≤ 'f' then c.toNat - 87
    else if 'A' ≤ c ∧ c ≤ 'F' then c.toNat - 55
    else base
  if v < base then some v else none

/-- A number in a base, its digits so far worth `acc`. -/
def digitsValue (base acc : Nat) (cs : List Char) : Option Nat :=
  match cs with
  | [] => some acc
  | c :: rest => (digitValue base c).bind fun v => digitsValue base (acc * base + v) rest

/-- A decimal or `0x` hexadecimal number (R96). -/
def parseNumber (cs : List Char) : Option Nat :=
  match cs with
  | [] => none
  | ['0', 'x'] => none
  | '0' :: 'x' :: rest => digitsValue 16 0 rest
  | _ => digitsValue 10 0 cs

/-- The symbolic operands of `SETMODEL` (R96). -/
def modelNames : List (List Char × Nat) := [("AUTO".toList, 0), ("DHT11".toList, 1), ("DHT22".toList, 2)]

/-- The symbolic operands of `STATUS` (R96). -/
def errorNames : List (List Char × Nat) :=
  [("NONE".toList, 0), ("TIMEOUT".toList, 1), ("CHECKSUM".toList, 2), ("IOERROR".toList, 3)]

/-- The symbolic operands of `RD` (R96, R40 of 10_state.md). -/
def registerNames : List (List Char × Nat) :=
  [("ST".toList, 0), ("ERR".toList, 1), ("MODEL".toList, 2), ("IDX".toList, 3), ("NB".toList, 4), ("T0".toList, 5),
   ("B0".toList, 8), ("B1".toList, 9), ("B2".toList, 10), ("B3".toList, 11), ("B4".toList, 12),
   ("HUM10".toList, 16), ("TEMP10".toList, 17), ("HUMF".toList, 18), ("TEMPF".toList, 19)]

/-- An operand of `n` bits: a name of the list or a number that fits. -/
def parseOperand (n : Nat) (names : List (List Char × Nat)) (cs : List Char) : Option (BitVec n) :=
  let value := match names.lookup cs with
    | some k => some k
    | none => parseNumber cs
  value.bind fun k => if k < 2 ^ n then some (BitVec.ofNat n k) else none

/-- A command without operand (R96, format Z). -/
def parseZ (mn : List Char) : Option Instr :=
  if mn = "CLEAR".toList then some .clear
  else if mn = "CHECK".toList then some .check
  else if mn = "CONVERT".toList then some .convert
  else none

/-- A command with one operand (R96, formats T and V). -/
def parseOne (mn op : List Char) : Option Instr :=
  if mn = "START.E".toList then (parseOperand 32 [] op).map .startE
  else if mn = "DECODE.S".toList then (parseOperand 32 [] op).map .decodeS
  else if mn = "SETMODEL".toList then (parseOperand 2 modelNames op).map .setmodel
  else if mn = "RD".toList then (parseOperand 5 registerNames op).map .rd
  else if mn = "STATUS".toList then (parseOperand 2 errorNames op).map .status
  else if mn = "POLL.L".toList then (parseOperand 32 [] op).map .pollL
  else if mn = "POLL.H".toList then (parseOperand 32 [] op).map .pollH
  else if mn = "CLS.ED".toList then (parseOperand 32 [] op).map .clsED
  else if mn = "CLS.SD".toList then (parseOperand 32 [] op).map .clsSD
  else if mn = "CLS.ES".toList then (parseOperand 32 [] op).map .clsES
  else if mn = "CLS.SS".toList then (parseOperand 32 [] op).map .clsSS
  else none

/-- `PHASE d` at time `t` in phase `i`: one poll that finds the line at the level opposite to the one the phase holds,
`d` microseconds after the phase began (R97 a). -/
def phasePoll (t : Word) (i : Int) (d : Word) : Instr := if i % 2 = 1 then .pollL (t + d) else .pollH (t + d)

/-- A list of `PHASE` pseudo-instructions from time `t` and phase `i` on (R97 a). -/
def expandPhases (t : Word) (i : Int) (ds : List Word) : List Instr :=
  match ds with
  | [] => []
  | d :: rest => phasePoll t i d :: expandPhases (t + d) (i + 1) rest

/-- Where the assembler stands after some phases: the time and the phase of the next one (R97 a). -/
def advancePhases (t : Word) (i : Int) (ds : List Word) : Word × Int := (t + ds.sum, i + ds.length)

/-- The phase durations a `PHASE` or `DBIT` line stands for (R97 a, b). -/
def parsePhases (words : List (List Char)) : Option (List Word) :=
  match words with
  | [mn, d] =>
    if mn = "PHASE".toList then (parseOperand 32 [] d).map fun x => [x] else none
  | [mn, dl, dh] =>
    if mn = "DBIT".toList then
      (parseOperand 32 [] dl).bind fun x => (parseOperand 32 [] dh).map fun y => [x, y]
    else none
  | _ => none

/-- One line of a program, with the assembler's numbers t and i once a `START.E` has been met (R96, R97). -/
def assembleWords (at? : Option (Word × Int)) (words : List (List Char)) :
    Option (List Instr × Option (Word × Int)) :=
  match parsePhases words with
  | some ds => at?.map fun p => (expandPhases p.1 p.2 ds, some (advancePhases p.1 p.2 ds))
  | none =>
    match words with
    | [] => some ([], at?)
    | [mn] => (parseZ mn).map fun i => ([i], at?)
    | [mn, op] =>
      (parseOne mn op).map fun i =>
        match i with
        | .startE now => ([i], some (now, -3))
        | _ => ([i], at?)
    | _ => none

/-- A program, one command per line, as commands (R96, R97). -/
def assembleLines (at? : Option (Word × Int)) (lines : List (List Char)) : Option (List Instr) :=
  match lines with
  | [] => some []
  | line :: rest =>
    (assembleWords at? (lineWords [] line)).bind fun x =>
      (assembleLines x.2 rest).map fun more => x.1 ++ more

/-- The command words of a program (R96). -/
def assemble (lines : List (List Char)) : Option (List CommandWord) :=
  (assembleLines none lines).map fun is => is.map encode

end Sys2Proof.Machine
end

