-- ==== Sys2Proof/Machine/Session.lean ====
section
/-! DEFINITION. The host of the block: SensorSession, ModelDetector and the request sequence as procedures over the
block (R190 to R205 of 45_control_and_host.md). Nothing here is state of the block (R42 of 10_state.md); what the
Clock, the line and the bus supply is an argument (log 16). A procedure answers `none` when the host stops polling in
the middle of a decode (R250 of 70_reset_and_hazards.md, U10) or the transport breaks its contract (log 12). -/

namespace Sys2Proof.Machine

/-- The host's OPEN parameters (R7 of 00_scope.md, D27): request durations and spacings by model, in microseconds. -/
structure HostParams where
  reqLow11 : Nat
  reqLow22 : Nat
  spacing11 : Nat
  spacing22 : Nat
deriving DecidableEq, Repr

/-- `T_REQ_LOW(DHT11) > T_REQ_LOW(DHT22) > 0` (R196 of 45_control_and_host.md, D27). -/
abbrev HostParams.Ok (p : HostParams) : Prop := 0 < p.reqLow22 ∧ p.reqLow22 < p.reqLow11

/-- The session's lifecycle (R192 of 45_control_and_host.md). -/
inductive SessionStage where
  | uninitialized
  | ready
  | reading
  | faulted
deriving DecidableEq, Repr

/-- A Reading copied out of the block: the two binary32 words of `RD HUMF` and `RD TEMPF` (R197). -/
structure Reading where
  humidity : Word
  temperature : Word
deriving DecidableEq, Repr

/-- SessionState (R191 of 45_control_and_host.md). `attempts` is the model's own: it counts reads, as the argument of
the free values of R198 (log 16). -/
structure Session where
  model : SensorModel
  lastOk : Option Word
  lastErr : Option ErrorKind
  reading : Option Reading
  variant : Variant
  stage : SessionStage
  attempts : Nat
deriving DecidableEq, Repr

/-- What the host does to the transport (R196, R204 of 45_control_and_host.md, R227 and R228 of 60_exceptions.md). A
`transfer` carries the transmitted buffer of the full-duplex exchange; the received one is `ReadEnv.buffer`. -/
inductive LineAction where
  | directionOut
  | directionIn
  | writeHigh
  | writeLow
  | hold (us : Nat)
  | configure (clockHz : Nat)
  | transfer (sent : List Byte)
  | release
deriving DecidableEq, Repr

/-- The block, the session record that drives it, and what the host has done to the transport, oldest first. -/
structure World where
  block : State
  session : Session
  line : List LineAction
deriving DecidableEq, Repr

/-- What the outside supplies for one read cycle: the Clock at `START.E`, the level and Clock of each poll (R203), the
received buffer (R204), and the Clock at success. -/
structure ReadEnv where
  startNow : Word
  polls : List (Bool × Word)
  buffer : List Byte
  doneNow : Word
deriving DecidableEq, Repr

/-- What `read` returns (R197): a Reading, or the error kind; on a session that is not `Ready`, `h.lastErr`. -/
inductive ReadResult where
  | reading (r : Reading)
  | error (e : Option ErrorKind)
deriving DecidableEq, Repr

/-- An input presented to the block and acted on at once. -/
def present (i : Input) (s : State) : Option State :=
  match step { s with port := i :: s.port } with
  | .next t => some t
  | .fault _ => none
  | .refused _ => none

/-- A command issued to the block (R190). -/
def issue (i : Instr) (s : State) : Option State := present (.command (encode i)) s

/-- The last response (R85); every command leaves one. -/
def lastResponse (s : State) : ResponseWord := s.rsp.getD 0

/-- "if rsp.err = None then rsp := i" (R197). -/
def issueIfNoError (i : Instr) (s : State) : Option State :=
  if responseErr (lastResponse s) = 0 then issue i s else some s

/-- The poll of one level and Clock value (R203). -/
def pollCommand (level : Bool) (now : Word) : Instr := if level then .pollH now else .pollL now

/-- Polls until a response is not `PENDING` (R197, R203); none when the host stops polling before. -/
def pollUntilDone (polls : List (Bool × Word)) (s : State) : Option State :=
  match polls with
  | [] => none
  | (level, now) :: rest =>
    match issue (pollCommand level now) s with
    | none => none
    | some t => if responseAck (lastResponse t) = 1 then pollUntilDone rest t else some t

/-- `T_REQ_LOW(m)`; the session's model is `DHT11` or `DHT22` when a request is made (R193, R196). -/
def requestLow (p : HostParams) : SensorModel → Nat
  | .auto => p.reqLow22
  | .dht11 => p.reqLow11
  | .dht22 => p.reqLow22

/-- Bit `a` of a buffer of the SPI bus in the order of time: bit `7 - (a mod 8)` of byte `a div 8` (R63 of 20_memory.md;
for the transmitted buffer log 23). -/
def bufferBit (buffer : List Byte) (a : Nat) : Bool := (buffer.getD (a / 8) 0).getLsbD (7 - a % 8)

/-- The byte whose eight bits, bit 7 first, are the levels at 0 to 7. -/
def packByte (level : Nat → Bool) : Byte :=
  BitVec.ofBoolListBE [level 0, level 1, level 2, level 3, level 4, level 5, level 6, level 7]

/-- The buffer of `n` bytes whose bit `a` is the level at `a`. -/
def packBuffer (level : Nat → Bool) (n : Nat) : List Byte :=
  (List.range n).map fun j => packByte fun k => level (8 * j + k)

/-- The level the host transmits at sample `a`, which is taken `a / F_S` seconds into the transfer: low before
`T_REQ_LOW(m)`, then high so that the line is released (R196, R204; log 23). -/
def requestLevel (p : HostParams) (m : SensorModel) (c : Params) (a : Nat) : Bool :=
  decide (requestLow p m * c.fS ≤ a * 1000000)

/-- The transmitted pattern of the capture, of the transfer's fixed length (R204; R228 of 60_exceptions.md). -/
def requestPattern (p : HostParams) (m : SensorModel) (c : Params) : List Byte :=
  packBuffer (requestLevel p m c) (bufferBytes c)

/-- The request sequence (R196); on an SPI bus the transmitted pattern of the one transfer makes it (R204). -/
def requestSequence (p : HostParams) (v : Variant) (m : SensorModel) (c : Params) : List LineAction :=
  match v with
  | .edge => [.directionOut, .writeHigh, .writeLow, .hold (requestLow p m), .writeHigh, .directionIn]
  | .sampled => [.transfer (requestPattern p m c)]

/-- The decode of one read cycle (R197, R205). -/
def decodeFrame (v : Variant) (env : ReadEnv) (s : State) : Option State :=
  match v with
  | .edge => (issue (.startE env.startNow) s).bind (pollUntilDone env.polls)
  | .sampled => (present (.transfer env.buffer) s).bind (issue (.decodeS 0))

/-- The copy-out of the Reading: `RD HUMF`, `RD TEMPF` (R197). -/
def copyReading (s : State) : Option (State × Reading) :=
  (issue (.rd 18) s).bind fun t =>
    (issue (.rd 19) t).map fun u =>
      (u, { humidity := responseData (lastResponse t), temperature := responseData (lastResponse u) })

/-- The end of a read cycle: the Reading copied out, or the error kind recorded; the session is `Ready` again (R192,
R197, R218). -/
def finishRead (env : ReadEnv) (w : World) (s : State) : Option (World × ReadResult) :=
  let h := w.session
  if responseErr (lastResponse s) = 0 then
    (copyReading s).map fun x =>
      ({ w with
         block := x.1
         session :=
          { h with
            reading := some x.2
            lastOk := some env.doneNow
            lastErr := some .none
            stage := .ready
            attempts := h.attempts + 1 } },
       .reading x.2)
  else
    let e := errorOfCode (responseErr (lastResponse s))
    some
      ({ w with
         block := s
         session := { h with lastErr := some e, stage := .ready, attempts := h.attempts + 1 } },
       .error (some e))

/-- One read cycle (R197): request, decode, check, convert, copy out. -/
def readCycle (p : HostParams) (env : ReadEnv) (w : World) : Option (World × ReadResult) :=
  let w1 := { w with line := w.line ++ requestSequence p w.session.variant w.session.model w.block.cfg }
  (((decodeFrame w.session.variant env w.block).bind (issueIfNoError .check)).bind (issueIfNoError .convert)).bind
    (finishRead env w1)

/-- `read(session)` (R197): a session that is not `Ready` issues no command and returns `h.lastErr` (D33). -/
def readSession (p : HostParams) (env : ReadEnv) (w : World) : Option (World × ReadResult) :=
  if w.session.stage = .ready then readCycle p env w else some (w, .error w.session.lastErr)

/-- `SETMODEL` of the session's model (R193). -/
def issueModel (w : World) : Option World :=
  (issue (.setmodel (modelCode w.session.model)) w.block).map fun t => { w with block := t }

/-- `CLEAR` issued by the session (R193, R200). -/
def issueClear (w : World) : Option World := (issue .clear w.block).map fun t => { w with block := t }

/-- What the probe's result makes of the model: `Timeout` and only `Timeout` downgrades to `DHT11` (R194). -/
def probedModel (r : ReadResult) : SensorModel := if r = .error (some .timeout) then .dht11 else .dht22

/-- The ModelDetector (R194): one read cycle with the `DHT22` request, then the model for good. -/
def detectModel (p : HostParams) (env : ReadEnv) (w : World) : Option World :=
  (issueModel { w with session := { w.session with model := .dht22 } }).bind fun w1 =>
    (readCycle p env w1).map fun x =>
      { x.1 with session := { x.1.session with model := probedModel x.2 } }

/-- A session record as `setup` creates it (R191); `h.lastOk`, `h.reading` have no value before the first success (U5),
`h.lastErr` none before the first attempt (log 16). -/
def newSession (m : SensorModel) (v : Variant) : Session where
  model := m
  lastOk := none
  lastErr := none
  reading := none
  variant := v
  stage := .uninitialized
  attempts := 0

/-- What acquiring the transport does: an open GPIO handle needs nothing, an SPI bus is configured at `F_S` (R193,
R243 of 70_reset_and_hazards.md). -/
def acquireActions (v : Variant) (c : Params) : List LineAction :=
  match v with
  | .edge => []
  | .sampled => [.configure c.fS]

/-- `setup` with the transport acquired: `CLEAR`; under `Unknown/AutoDetect` the detector and `CLEAR` again; `SETMODEL`;
`Ready` (R193, C9 of 90_conflicts.md). -/
def setupAcquired (p : HostParams) (m : SensorModel) (v : Variant) (env : ReadEnv) (s : State) : Option World :=
  let w : World := { block := s, session := newSession m v, line := acquireActions v s.cfg }
  ((issueClear w).bind fun w1 =>
      if m = .auto then (detectModel p env w1).bind issueClear else some w1).bind fun w2 =>
    (issueModel w2).map fun w3 => { w3 with session := { w3.session with stage := .ready } }

/-- `setup(model)` (R193): when the transport cannot be acquired the session record is `Faulted` with `IoError` and no
command is sent (R213 of 60_exceptions.md, C8 of 90_conflicts.md). DESIGN CHOICE (unsafe, log 24): R193 writes `h.model`
only on success and does not say what a failed acquisition did to the transport; the model's record then holds the
caller's model and the other fields of a fresh session, and its transport log is empty. -/
def setupSession (p : HostParams) (m : SensorModel) (v : Variant) (acquired : Bool) (env : ReadEnv) (s : State) :
    Option World :=
  if acquired then setupAcquired p m v env s
  else
    some
      { block := s
        session := { newSession m v with lastErr := some .ioError, stage := .faulted }
        line := [] }

/-- `humidity(session)` (R198): the Reading's humidity after a success; after a failed read a free value (U4); before
the first success no value. -/
def sessionHumidity (h : Session) : Option Word :=
  h.reading.map fun r => if h.lastErr = some .none then r.humidity else Config.invalidHumidity h.attempts

/-- `temperature(session)` (R198). -/
def sessionTemperature (h : Session) : Option Word :=
  h.reading.map fun r => if h.lastErr = some .none then r.temperature else Config.invalidTemperature h.attempts

/-- `teardown(session)` (R200): `CLEAR`, the transport released, `h.state` `Uninitialized`; the session's fields cease to
exist, so the record is as before any `setup` (log 16). -/
def teardownSession (w : World) : Option World :=
  (issueClear w).map fun w1 =>
    { w1 with session := newSession .auto w1.session.variant, line := w1.line ++ [.release] }

end Sys2Proof.Machine
end

