-- ==== Sys2Proof/Safety.lean ====
section
/-! DEFINITION. The terms of the claims: the invariants of R31, the legality and transition tables of R34 written apart
from the meanings, what a run of the sample memory is (R141), the bits of a frame (R91), the nearest float (R171), and
which parts of two states can be told apart (R35). -/

namespace Sys2Proof.Machine

/-- Byte `B[k]` of a frame, k from 0 to 4. -/
def frameByte (f : RawFrame) (k : Nat) : Byte :=
  match k with
  | 0 => f.b0
  | 1 => f.b1
  | 2 => f.b2
  | 3 => f.b3
  | _ => f.b4

/-- Data bit `n` of a frame is bit `7 - (n mod 8)` of byte `B[n div 8]` (R91 of 30_encoding.md). -/
def frameBit (f : RawFrame) (n : Nat) : Bool := (frameByte f (n / 8)).getLsbD (7 - n % 8)

/-- The data bits shifted in when edge `i` is awaited: `max(0, i div 2)` (R31 b of 10_state.md). -/
def bitsBeforePhase (i : BitVec 8) : Nat := (max 0 (i.toInt / 2)).toNat

/-- The invariants of R31 (10_state.md) with the ranges of R24 and R25, the canonical sample memory (R60 of
20_memory.md) and the constraints on the configuration (R8 of 00_scope.md). Clause (f) holds by the types. -/
structure Inv (s : State) : Prop where
  config : s.cfg.Ok
  memory : Memory.wf s.mem
  memoryInside : ∀ x ∈ s.mem, x.1 < bufferBytes s.cfg
  idxRange : -3 ≤ s.idx.toInt ∧ s.idx.toInt ≤ 80
  nbRange : s.nb.toNat ≤ 40
  failed : s.st = .failed ↔ s.err = .timeout ∨ s.err = .checksumMismatch
  noError : s.st ≠ .failed → s.err = .none
  running : s.st = .run → s.idx.toInt ≤ 79 ∧ s.nb.toNat = bitsBeforePhase s.idx
  framed : s.st = .framed ∨ s.st = .accepted ∨ s.st = .converted → s.nb = 40
  accepted : s.st = .accepted ∨ s.st = .converted →
    (s.b.b0.toNat + s.b.b1.toNat + s.b.b2.toNat + s.b.b3.toNat) % 256 = s.b.b4.toNat
  converted : s.st = .converted → conversion s.model s.b = some (s.hum10, s.temp10)

/-- The pairs (stage, command) that R34 (10_state.md) does not reject, written from its table, with the readability
table of R35 for `RD`. -/
def admitted (i : Instr) (s : State) : Bool :=
  match i with
  | .clear => s.st != .run
  | .startE _ => s.st != .run
  | .decodeS _ => s.st != .run
  | .check => s.st == .framed
  | .convert => s.st == .accepted && s.model != .auto
  | .setmodel m => m != 3 && s.st != .run && s.st != .converted
  | .rd r =>
    if 0 ≤ r.toNat ∧ r.toNat ≤ 5 then s.st != .run
    else if 8 ≤ r.toNat ∧ r.toNat ≤ 12 then s.st == .framed || s.st == .accepted || s.st == .converted
    else if 16 ≤ r.toNat ∧ r.toNat ≤ 19 then s.st == .converted
    else false
  | .status _ => s.st != .run
  | .pollL _ => s.st == .run
  | .pollH _ => s.st == .run
  | .clsED _ => s.st != .run
  | .clsSD _ => s.st != .run
  | .clsES _ => s.st != .run
  | .clsSS _ => s.st != .run

/-- The (command, from, to) triples of the transition table R34 (10_state.md), conditions apart. -/
def stageMove (i : Instr) (source target : Stage) : Bool :=
  match i with
  | .startE _ => source != .run && target == .run
  | .pollL _ => source == .run && (target == .failed || target == .run || target == .framed)
  | .pollH _ => source == .run && (target == .failed || target == .run || target == .framed)
  | .decodeS _ => source != .run && (target == .framed || target == .failed)
  | .check => source == .framed && (target == .accepted || target == .failed)
  | .convert => source == .accepted && target == .converted
  | .clear => source != .run && target == .idle
  | .setmodel _ => false
  | .rd _ => false
  | .status _ => false
  | .clsED _ => false
  | .clsSD _ => false
  | .clsES _ => false
  | .clsSS _ => false

/-- The run that starts at `p` has no end inside the memory (R141, R146 of 42_framer_sampled.md). -/
def NoEnd (s : State) (p : Nat) : Prop := ∀ a, p ≤ a → a < s.cfg.nS → memRead s a = memRead s p

/-- The run that starts at `p` ends at `q`: equal samples from `p` up to `q`, and a sample of the other level at `q`
inside the memory (R141 of 42_framer_sampled.md). -/
def RunEnds (s : State) (p q : Nat) : Prop :=
  p < q ∧ q < s.cfg.nS ∧ (∀ a, p ≤ a → a < q → memRead s a = memRead s p) ∧ memRead s q ≠ memRead s p

/-- The samples from `e 0` on are `n` closed runs with ends `e 1`, ..., `e n` (R93 of 30_encoding.md). -/
def RunsFrom (s : State) (e : Nat → Nat) (n : Nat) : Prop :=
  e 0 < s.cfg.nS ∧ ∀ j < n, RunEnds s (e j) (e (j + 1))

/-- The measured duration of data run `n`, run `5 + 2n` of the capture, rounded down (R93 of 30_encoding.md, R142 of
42_framer_sampled.md). -/
def dataRunDuration (c : Params) (e : Nat → Nat) (n : Nat) : Nat := (e (6 + 2 * n) - e (5 + 2 * n)) * 1000000 / c.fS

/-- The lengths in samples of the synthetic capture `enc(F, r)` of R148 (42_framer_sampled.md): the four framing runs,
the bit start of each bit, the high runs of a 0 and of a 1, the closing low run. -/
structure RunLengths where
  requestLow : Nat
  requestHigh : Nat
  initLow : Nat
  initHigh : Nat
  bitStart : List Nat
  zeroRun : Nat
  oneRun : Nat
  closing : Nat

/-- The samples of the data bits of a frame from bit `n` on, one bit-start length per bit (R148). -/
def encodeBits (f : RawFrame) (zeroRun oneRun n : Nat) (starts : List Nat) : List Bool :=
  match starts with
  | [] => []
  | low :: rest =>
    List.replicate low false ++ List.replicate (if frameBit f n then oneRun else zeroRun) true ++
      encodeBits f zeroRun oneRun (n + 1) rest

/-- The synthetic capture `enc(F, r)` of R148 (42_framer_sampled.md). -/
def encodeFrame (f : RawFrame) (r : RunLengths) : List Bool :=
  List.replicate r.requestLow false ++ List.replicate r.requestHigh true ++ List.replicate r.initLow false ++
    List.replicate r.initHigh true ++ encodeBits f r.zeroRun r.oneRun 0 r.bitStart ++ List.replicate r.closing false

/-- A positive word is the binary32 number nearest to `m / 10`: exponent field `e`, fraction field `f`, and the
significand `2^23 + f` less than half a unit away from `(m / 10) * 2^(150 - e)` (R171 of 44_converter.md). -/
def NearestTenths (w : Word) (m : Nat) : Prop :=
  ∃ e f : Nat, 0 < e ∧ e ≤ 150 ∧ f < 2 ^ 23 ∧ w.toNat = e * 2 ^ 23 + f ∧
    10 * (2 ^ 23 + f) < m * 2 ^ (150 - e) + 5 ∧ m * 2 ^ (150 - e) < 10 * (2 ^ 23 + f) + 5

/-- Two states that differ at most in registers their stage does not let be read (R35 of 10_state.md): `B` in `IDLE`
and `FAILED`, `HUM10` and `TEMP10` in every stage but `CONVERTED`. (`B` is unreadable in `RUN` too, but the polls of `RUN`
shift it and it becomes readable in `FRAMED`, so in `RUN` the two hold the same `B`.) -/
structure SameVisible (s t : State) : Prop where
  rest : t = { s with b := t.b, hum10 := t.hum10, temp10 := t.temp10 }
  frame : s.st = .run ∨ s.st = .framed ∨ s.st = .accepted ∨ s.st = .converted → t.b = s.b
  reading : s.st = .converted → t.hum10 = s.hum10 ∧ t.temp10 = s.temp10

/-- Two outcomes that cannot be told apart but by registers that may not be read. -/
def SameOutcome (x y : Host.Outcome State Fault Refusal) : Prop :=
  match x, y with
  | .next s, .next t => SameVisible s t
  | .fault f, .fault g => f = g
  | .refused f, .refused g => f = g
  | _, _ => False

/-- An outcome with its next state changed. -/
def mapNext (f : State → State) (x : Host.Outcome State Fault Refusal) : Host.Outcome State Fault Refusal :=
  match x with
  | .next s => .next (f s)
  | .fault r => .fault r
  | .refused r => .refused r

/-- The commands that read or write `MODEL` (R23 of 10_state.md). -/
def usesModel (i : Instr) : Bool :=
  match i with
  | .convert => true
  | .setmodel _ => true
  | .rd r => r == 2
  | _ => false

/-- The host leaves the minimum spacing between two reads, a usage constraint that nothing enforces (R225 of
60_exceptions.md, R252 of 70_reset_and_hazards.md). -/
def SpacingKept (p : HostParams) (m : SensorModel) (elapsed : Nat) : Prop :=
  (if m = .dht11 then p.spacing11 else p.spacing22) ≤ elapsed

/-- The line is low wherever the host transmits low: what the host receives begins inside its own request low pulse
(R204 of 45_control_and_host.md; log 23). -/
def CaptureShowsRequest (sent received : List Byte) : Prop :=
  ∀ a < 8 * sent.length, bufferBit sent a = false → bufferBit received a = false

/-- What must hold at the start of a read cycle (R244 of 70_reset_and_hazards.md), the host's duty (log 18): on a GPIO
line the operand of `START.E` is a Clock value read after the release of the line, both in microseconds since some
origin; on an SPI bus the capture is one complete transfer that began inside the request low pulse; on both the sensor
has had its spacing. That the line is released and switched to input, and the transfer made, before the decode is in
`readCycle`. -/
structure CycleStart (p : HostParams) (env : ReadEnv) (w : World) (elapsed releaseTime startTime : Nat) : Prop where
  startAfterRelease : w.session.variant = .edge → releaseTime ≤ startTime ∧ env.startNow = BitVec.ofNat 32 startTime
  captureInRequest : w.session.variant = .sampled →
    env.buffer.length = bufferBytes w.block.cfg ∧
      CaptureShowsRequest (requestPattern p w.session.model w.block.cfg) env.buffer
  spacing : SpacingKept p w.session.model elapsed

end Sys2Proof.Machine
end

