-- ==== Sys2Proof/Certificates/Slice0/Obligations.lean ====
section
/-! DEFINITION. The statements for the provers. Each quantifies over every configuration a state can hold (log 1). -/

open Sys2Proof Sys2Proof.Machine

/-! ## Reset and the step -/

/-- R41 of 10_state.md, R241 of 70_reset_and_hazards.md: the reset values the spec gives, for every configuration. (The
values of `B`, `HUM10`, `TEMP10` are the model's choice, log 5 and log 6, and are not stated.) -/
def Obligations.ResetHoldsTheValuesOfTheSpec : Prop :=
  ∀ c : Params,
    let s := State.resetWith c
    s.st = .idle ∧ s.err = .none ∧ s.model = .auto ∧ s.idx = 0 ∧ s.nb = 0 ∧ s.t0 = 0 ∧ s.mem = [] ∧ s.cfg = c

/-- R31 of 10_state.md: the invariants hold after reset, for every configuration that meets R8, and so at
`State.reset`. -/
def Obligations.ResetMeetsTheInvariant : Prop :=
  (∀ c : Params, c.Ok → Inv (State.resetWith c)) ∧ Inv State.reset

/-- R80 of 30_encoding.md: a command word on the port that stands for a well-formed command is executed, once: the step
is that command's `exec`, on the state with the word taken from the port. -/
def Obligations.StepRunsTheDecodedCommand : Prop :=
  ∀ (s : State) (cw : CommandWord) (rest : List Input) (i : Instr),
    s.port = .command cw :: rest → decode cw = .ok i →
      i.WellFormed = true ∧ step s = exec i { s with port := rest }

/-- R84, R86 of 30_encoding.md: a reserved word is answered REJECTED in every stage, with no state change. -/
def Obligations.StepRejectsAReservedWord : Prop :=
  ∀ (s : State) (cw : CommandWord) (rest : List Input) (why : Reserved),
    s.port = .command cw :: rest → decode cw = .error why →
      step s = .next { s with port := rest, rsp := some (responseWord .rejected s.err 0) }

/-- R240, R241 of 70_reset_and_hazards.md: `rst` in any stage, `RUN` included, puts every element at its reset value,
leaves the configuration, and produces no response. The values it gives `B`, `HUM10`, `TEMP10` are the model's choice
(log 5, log 6); the inputs still to come and the model's two counters are the model's own (log 11, log 14). -/
def Obligations.ResetInputResetsFromEveryStage : Prop :=
  ∀ (s : State) (rest : List Input),
    s.port = .reset :: rest →
      step s = .next { State.resetWith s.cfg with port := rest, epoch := s.epoch + 1, convs := s.convs }

/-- R242 of 70_reset_and_hazards.md, as the model reads it (log 13): with no input presented the block waits and a step
changes nothing. -/
def Obligations.BlockWaitsWithNoInput : Prop :=
  ∀ s : State, s.port = [] → step s = .next s

/-- Words written out bit by bit from R80 to R83 of 30_encoding.md decode to the command they stand for (a sanity
statement). -/
def Obligations.WrittenOutWordsDecode : Prop :=
  decode 0b0000000100000000000000000000001111101000#40 = .ok (.startE 1000) ∧
  decode 0b0000010100000000000000000000000000000010#40 = .ok (.setmodel 2) ∧
  decode 0b0000011000000000000000000000000000010010#40 = .ok (.rd 18) ∧
  decode 0b0001000100000000000000000000010001001100#40 = .ok (.pollH 1100) ∧
  decode 0b0010001100000000000000000000000001111001#40 = .ok (.clsSS 121) ∧
  decode 0b0000010100000000000000000000000000000011#40 = .error .model ∧
  decode 0b0000011000000000000000000000000000100000#40 = .error .mustBeZero

/-! ## Encoding -/

/-- R80 to R83 of 30_encoding.md: the decoder reads every well-formed command back from its word, with every operand
at every value. -/
def Obligations.DecodeReadsBackEveryEncoding : Prop :=
  ∀ i : Instr, i.WellFormed = true → decode (encode i) = .ok i

/-- R80 to R84 of 30_encoding.md: a word that decodes to a command is that command's word, and the command is well
formed, so every word has one meaning and no reserved word falls through to a neighbour. -/
def Obligations.EveryDecodedWordIsTheEncoding : Prop :=
  ∀ (cw : CommandWord) (i : Instr), decode cw = .ok i → encode i = cw ∧ i.WellFormed = true

/-- R84, R86 of 30_encoding.md: every reserved encoding, (a) to (e), is answered REJECTED in every stage, with no state
change. -/
def Obligations.ReservedEncodingsAreRejected : Prop :=
  ∀ (s : State) (cw : CommandWord) (rest : List Input),
    let opc := (opcodeOf cw).toNat
    let arg := (argumentOf cw).toNat
    s.port = .command cw :: rest →
    ((0x08 ≤ opc ∧ opc ≤ 0x0F ∨ 0x12 ≤ opc ∧ opc ≤ 0x1F ∨ 0x24 ≤ opc) ∨
      ((opc = 0x00 ∨ opc = 0x03 ∨ opc = 0x04) ∧ arg ≠ 0) ∨
      ((opc = 0x05 ∨ opc = 0x07) ∧ 4 ≤ arg ∨ opc = 0x06 ∧ 32 ≤ arg) ∨
      (opc = 0x05 ∧ arg = 3) ∨
      (opc = 0x06 ∧ (arg = 6 ∨ arg = 7 ∨ arg = 13 ∨ arg = 14 ∨ arg = 15 ∨ 20 ≤ arg ∧ arg ≤ 31))) →
      step s = .next { s with port := rest, rsp := some (responseWord .rejected s.err 0) }

/-- R83 of 30_encoding.md: the fourteen rows are disjoint; a word that decodes selects the row of its mnemonic; a word
that selects no row is reserved. -/
def Obligations.OpcodeRowsAreDisjointAndComplete : Prop :=
  (∀ (cw : CommandWord) (x y : OpcodeRow),
    x ∈ opcodeRows → y ∈ opcodeRows → x.selects cw = true → y.selects cw = true → x = y) ∧
  (∀ (cw : CommandWord) (i : Instr),
    decode cw = .ok i → ∃ row ∈ opcodeRows, row.mnemonic = mnemonic i ∧ row.selects cw = true) ∧
  (∀ cw : CommandWord, (∀ row ∈ opcodeRows, row.selects cw = false) → ∃ why, decode cw = .error why)

/-- R85 of 30_encoding.md: the fields of a response word, and that two different responses are two different words. -/
def Obligations.ResponseWordHoldsItsFields : Prop :=
  (∀ (a : Ack) (e : ErrorKind) (d : Word),
    responseAck (responseWord a e d) = ackCode a ∧ responseErr (responseWord a e d) = errorCode e ∧
      responseData (responseWord a e d) = d) ∧
  (∀ (a a' : Ack) (e e' : ErrorKind) (d d' : Word),
    responseWord a e d = responseWord a' e' d' → a = a' ∧ e = e' ∧ d = d')

/-! ## The control commands -/

/-- R180 of 45_control_and_host.md: `CLEAR` in every stage but `RUN`: `ST` and `ERR` written, everything else
unchanged; in `RUN` it is REJECTED. -/
def Obligations.ClearReturnsToIdle : Prop :=
  encode .clear = 0x0000000000#40 ∧
  ∀ s : State,
    (s.st ≠ .run →
      exec .clear s = .next { s with st := .idle, err := .none, rsp := some (responseWord .done .none 0) }) ∧
    (s.st = .run → exec .clear s = .next { s with rsp := some (responseWord .rejected s.err 0) })

/-- R181 of 45_control_and_host.md: `SETMODEL m` with m = 0, 1, 2 outside `RUN` and `CONVERTED` writes `MODEL` and
nothing else, and leaves `ERR` in the response; in those two stages, and with m = 3 in every stage, it is REJECTED. -/
def Obligations.SetmodelWritesTheModel : Prop :=
  (∀ m : BitVec 2, encode (.setmodel m) = 0x05#8 ++ (m.setWidth 32 : Word)) ∧
  ∀ s : State,
    (∀ m : SensorModel, s.st ≠ .run → s.st ≠ .converted →
      exec (.setmodel (modelCode m)) s =
        .next { s with model := m, rsp := some (responseWord .done s.err ((modelCode m).setWidth 32)) }) ∧
    (∀ m : BitVec 2, s.st = .run ∨ s.st = .converted ∨ m = 3 →
      exec (.setmodel m) s = .next { s with rsp := some (responseWord .rejected s.err 0) })

/-- R183 of 45_control_and_host.md, R95 of 30_encoding.md: `STATUS k` in every stage but `RUN` answers k and writes
nothing; k is the code of the error kind whose string it names, whatever `ERR` holds, and the strings of the kinds with
codes 0, 1, 2, 3 are those of the table; in `RUN` it is REJECTED. -/
def Obligations.StatusNamesItsOperand : Prop :=
  (∀ k : BitVec 2, encode (.status k) = 0x07#8 ++ (k.setWidth 32 : Word)) ∧
  (∀ (s : State) (k : BitVec 2), s.st ≠ .run →
    exec (.status k) s = .next { s with rsp := some (responseWord .done s.err (k.setWidth 32)) }) ∧
  (∀ (s : State) (k : BitVec 2), s.st = .run →
    exec (.status k) s = .next { s with rsp := some (responseWord .rejected s.err 0) }) ∧
  (∀ e : ErrorKind, errorOfCode (errorCode e) = e) ∧
  [0, 1, 2, 3].map (fun k => statusString (errorOfCode k)) = ["OK", "TIMEOUT", "CHECKSUM", "OTHER"] ∧
  [ErrorKind.none, .timeout, .checksumMismatch, .ioError].map statusString = ["OK", "TIMEOUT", "CHECKSUM", "OTHER"]

/-- R182 of 45_control_and_host.md, R40 of 10_state.md: `RD` of the status registers outside `RUN` answers their value,
`IDX` sign-extended, and writes nothing. -/
def Obligations.RdReadsTheStatusRegisters : Prop :=
  ∀ s : State, s.st ≠ .run →
    ∃ d0 d1 d2 d3 d4 d5 : Word,
      exec (.rd 0) s = .next { s with rsp := some (responseWord .done s.err d0) } ∧ d0.toNat = (stageCode s.st).toNat ∧
      exec (.rd 1) s = .next { s with rsp := some (responseWord .done s.err d1) } ∧ d1.toNat = (errorCode s.err).toNat ∧
      exec (.rd 2) s = .next { s with rsp := some (responseWord .done s.err d2) } ∧
        d2.toNat = (modelCode s.model).toNat ∧
      exec (.rd 3) s = .next { s with rsp := some (responseWord .done s.err d3) } ∧ d3.toInt = s.idx.toInt ∧
      exec (.rd 4) s = .next { s with rsp := some (responseWord .done s.err d4) } ∧ d4.toNat = s.nb.toNat ∧
      exec (.rd 5) s = .next { s with rsp := some (responseWord .done s.err d5) } ∧ d5 = s.t0

/-- R182, R35: `RD` of the five frame registers in `FRAMED`, `ACCEPTED`, `CONVERTED` answers the byte and writes
nothing. -/
def Obligations.RdReadsTheFrame : Prop :=
  ∀ s : State, s.st = .framed ∨ s.st = .accepted ∨ s.st = .converted →
    ∀ k < 5, ∃ d : Word,
      exec (.rd (BitVec.ofNat 5 (8 + k))) s = .next { s with rsp := some (responseWord .done s.err d) } ∧
        d.toNat = (frameByte s.b k).toNat

/-- R182, R35: `RD` of `HUM10` and `TEMP10` in `CONVERTED` answers the tenths, `TEMP10` sign-extended. -/
def Obligations.RdReadsTheTenths : Prop :=
  ∀ s : State, s.st = .converted →
    ∃ d d' : Word,
      exec (.rd 16) s = .next { s with rsp := some (responseWord .done s.err d) } ∧ d.toNat = s.hum10.toNat ∧
      exec (.rd 17) s = .next { s with rsp := some (responseWord .done s.err d') } ∧ d'.toInt = s.temp10.toInt

/-- R30 of 10_state.md, R171 of 44_converter.md: `RD HUMF` answers the binary32 number nearest to `HUM10 / 10`, and
+0.0 for 0 (R172: never a negative zero). -/
def Obligations.RdHumfIsTheNearestFloat : Prop :=
  ∀ s : State, s.st = .converted →
    ∃ d : Word, exec (.rd 18) s = .next { s with rsp := some (responseWord .done s.err d) } ∧
      (s.hum10 = 0 → d = 0) ∧ (s.hum10 ≠ 0 → NearestTenths d s.hum10.toNat)

/-- R30, R171, R172 (read widely: log 10): `RD TEMPF` answers the binary32 number nearest to `TEMP10 / 10` with its
sign, and for 0 one of the two zeros; nothing says which. -/
def Obligations.RdTempfIsTheNearestFloat : Prop :=
  ∀ s : State, s.st = .converted →
    ∃ d : Word, exec (.rd 19) s = .next { s with rsp := some (responseWord .done s.err d) } ∧
      (s.temp10 = 0 → d = 0 ∨ d = 0x80000000) ∧
      (0 < s.temp10.toInt → NearestTenths d s.temp10.toInt.natAbs) ∧
      (s.temp10.toInt < 0 → ∃ m : Word, NearestTenths m s.temp10.toInt.natAbs ∧ d.toNat = 2 ^ 31 + m.toNat)

/-! ## The classifier -/

/-- R111, R112, R113, R114 to R117 of 40_classifier.md: outside `RUN` each classification command answers 0, 1 or 2 by
the bands of its variant, equality on the lower side, the role without effect, and writes nothing. -/
def Obligations.ClassificationAnswersItsBand : Prop :=
  ∀ (s : State) (d : Word), s.st ≠ .run →
    let answer := fun (thr ceil : Nat) => if ceil < d.toNat then 2#32 else if thr < d.toNat then 1#32 else 0#32
    let edge := responseWord .done s.err (answer s.cfg.thrE s.cfg.ceilE)
    let sampled := responseWord .done s.err (answer s.cfg.thrS s.cfg.ceilS)
    exec (.clsED d) s = .next { s with rsp := some edge } ∧ exec (.clsES d) s = .next { s with rsp := some edge } ∧
      exec (.clsSD d) s = .next { s with rsp := some sampled } ∧
      exec (.clsSS d) s = .next { s with rsp := some sampled }

/-- R112, R113 of 40_classifier.md: the three bands of the classifier for every duration, equality on the lower side at
both cuts, and a role that changes nothing. -/
def Obligations.ClassifierCutsAtItsBounds : Prop :=
  ∀ (c : Params) (v : Variant) (r : Role) (d : Nat), c.Ok →
    (classify c v r d = .zero ↔ d ≤ threshold c v) ∧
    (classify c v r d = .one ↔ threshold c v < d ∧ d ≤ ceiling c v) ∧
    (classify c v r d = .timeout ↔ ceiling c v < d) ∧ classify c v .start d = classify c v .data d

/-- R119 of 40_classifier.md: once `Timeout` for a duration, `Timeout` for every longer one; R118: of two durations the
longer one never classifies lower, under one configuration that meets R8. -/
def Obligations.ClassifierIsMonotone : Prop :=
  ∀ (c : Params) (v : Variant) (r r' : Role) (d d' : Nat), c.Ok → d ≤ d' →
    (classify c v r d = .timeout → classify c v r' d' = .timeout) ∧
      (symbolCode (classify c v r d)).toNat ≤ (symbolCode (classify c v r' d')).toNat

/-! ## The edge-driven framer -/

/-- R122 of 41_framer_edge.md: `START.E` in every stage but `RUN`: what it writes, and nothing else; in `RUN` it is
REJECTED. -/
def Obligations.StartBeginsADecode : Prop :=
  (∀ now : Word, encode (.startE now) = 0x01#8 ++ now) ∧
  ∀ (s : State) (now : Word),
    (s.st ≠ .run →
      exec (.startE now) s =
        .next { s with
          st := .run, err := .none, idx := BitVec.ofInt 8 (-3), nb := 0, b := ⟨0, 0, 0, 0, 0⟩, t0 := now,
          rsp := some (responseWord .done .none 0) }) ∧
    (s.st = .run → exec (.startE now) s = .next { s with rsp := some (responseWord .rejected s.err 0) })

/-- R123 of 41_framer_edge.md: the age is the true elapsed time whenever that is below 2^32, across a wrap of the
Clock, and it is the modular difference always. -/
def Obligations.AgeToleratesAClockWrap : Prop :=
  (∀ (t0 : Word) (n : Nat), n < 2 ^ 32 → age (t0 + BitVec.ofNat 32 n) t0 = n) ∧
  (∀ now t0 : Word, (age now t0 : Int) = ((now.toNat : Int) - t0.toNat) % 2 ^ 32)

/-- R124, R130 of 41_framer_edge.md: in `RUN` a poll of either level whose age exceeds `CEIL_E` raises `Timeout`, with
the phase in the response, and writes `ERR` and `ST` only. -/
def Obligations.PollPastTheCeilingTimesOut : Prop :=
  ∀ (s : State) (now : Word) (level : Bool),
    s.st = .run → (s.cfg.ceilE : Int) < ((now.toNat : Int) - s.t0.toNat) % 2 ^ 32 →
      exec (pollCommand level now) s =
        .next { s with
          st := .failed, err := .timeout, rsp := some (responseWord .done .timeout (s.idx.signExtend 32)) }

/-- R124, R125, R126: in `RUN`, within the ceiling, a poll that finds the line at the level the phase holds answers
`PENDING` with the phase and writes nothing. -/
def Obligations.PollWithoutAnEdgeWritesNothing : Prop :=
  ∀ (s : State) (now : Word) (level : Bool),
    s.st = .run → ((now.toNat : Int) - s.t0.toNat) % 2 ^ 32 ≤ s.cfg.ceilE →
    s.idx.toInt % 2 = (if level then 1 else 0) →
      exec (pollCommand level now) s =
        .next { s with rsp := some (responseWord .pending .none (s.idx.signExtend 32)) }

/-- R124, R127: in `RUN`, within the ceiling, a poll that observes the edge of a framing phase or of an even phase
writes `IDX` and `T0` only. -/
def Obligations.PollTakesAnEdgeThatIsNoDatum : Prop :=
  ∀ (s : State) (now : Word) (level : Bool),
    s.st = .run → ((now.toNat : Int) - s.t0.toNat) % 2 ^ 32 ≤ s.cfg.ceilE →
    s.idx.toInt % 2 = (if level then 0 else 1) → (s.idx.toInt < 1 ∨ s.idx.toInt % 2 = 0) →
      exec (pollCommand level now) s =
        .next { s with
          idx := s.idx + 1, t0 := now, rsp := some (responseWord .pending .none ((s.idx + 1).signExtend 32)) }

/-- R124, R127, R129, R65: in `RUN`, within the ceiling, `POLL.L` in an odd phase from 1 to 79 ends the high pulse of a
data bit: the bit is 1 when the age exceeds `THR_E`; byte `B[NB div 8]` becomes twice itself plus the bit modulo 256
and the other bytes stay; phase 79 is the last and frames. -/
def Obligations.PollShiftsADataBitIn : Prop :=
  ∀ (s : State) (now : Word),
    s.st = .run → ((now.toNat : Int) - s.t0.toNat) % 2 ^ 32 ≤ s.cfg.ceilE →
    1 ≤ s.idx.toInt → s.idx.toInt ≤ 79 → s.idx.toInt % 2 = 1 → s.nb.toNat < 40 →
      ∃ f : RawFrame,
        exec (.pollL now) s =
          .next { s with
            b := f, nb := s.nb + 1, idx := s.idx + 1, t0 := now,
            st := if s.idx.toInt = 79 then .framed else .run,
            rsp := some (if s.idx.toInt = 79 then responseWord .done .none 80
              else responseWord .pending .none ((s.idx + 1).signExtend 32)) } ∧
        (frameByte f (s.nb.toNat / 8)).toNat =
          (2 * (frameByte s.b (s.nb.toNat / 8)).toNat +
            (if (s.cfg.thrE : Int) < ((now.toNat : Int) - s.t0.toNat) % 2 ^ 32 then 1 else 0)) % 256 ∧
        ∀ k < 5, k ≠ s.nb.toNat / 8 → frameByte f k = frameByte s.b k

/-- R24 of 10_state.md: `IDX` never skips: a command leaves it, `START.E` writes -3, a poll in `RUN` may add 1. -/
def Obligations.IdxNeverSkips : Prop :=
  ∀ (i : Instr) (s t : State), exec i s = .next t →
    t.idx = s.idx ∨ (∃ now, i = .startE now ∧ t.idx.toInt = -3) ∨
      ((∃ level now, i = pollCommand level now) ∧ s.st = .run ∧ t.idx = s.idx + 1)

/-- R131 of 41_framer_edge.md, R97, R91 of 30_encoding.md: a decode as a function of the 83 phase durations. `START.E`
and one poll per phase (what `PHASE d` stands for), every duration within `CEIL_E`: 84 steps end `FRAMED`, and data
bit n is 1 exactly when the duration of phase 2n+1 exceeds `THR_E`. -/
def Obligations.PhaseDurationsDecideTheFrame : Prop :=
  ∀ (s : State) (now : Word) (ds : List Word),
    s.st ≠ .run → ds.length = 83 →
    s.port = (Instr.startE now :: expandPhases now (-3) ds).map (fun i => Input.command (encode i)) →
    (∀ d ∈ ds, d.toNat ≤ s.cfg.ceilE) →
      ∃ t : State, Sys2Proof.core.run 84 s = .next t ∧
        t = { s with
          st := .framed, err := .none, idx := 80, nb := 40, b := t.b, t0 := now + ds.sum, port := [],
          rsp := some (responseWord .done .none 80) } ∧
        ∀ n < 40, frameBit t.b n = decide (s.cfg.thrE < (ds.getD (2 * n + 4) 0).toNat)

/-- R131, R130 of 41_framer_edge.md: the first phase whose duration exceeds `CEIL_E` ends the decode in `Timeout`, with
`IDX` and the response at that phase and `NB` at the count reached. -/
def Obligations.FirstLongPhaseTimesOut : Prop :=
  ∀ (s : State) (now : Word) (ds more : List Word) (d : Word) (rest : List Input),
    s.st ≠ .run → ds.length < 83 →
    s.port = (Instr.startE now :: expandPhases now (-3) (ds ++ d :: more)).map (fun i => Input.command (encode i)) ++ rest →
    (∀ x ∈ ds, x.toNat ≤ s.cfg.ceilE) → s.cfg.ceilE < d.toNat →
      ∃ t : State, Sys2Proof.core.run (ds.length + 2) s = .next t ∧ t.st = .failed ∧ t.err = .timeout ∧
        t.idx.toInt = (ds.length : Int) - 3 ∧ t.nb.toNat = bitsBeforePhase t.idx ∧
        t.rsp = some (responseWord .done .timeout (t.idx.signExtend 32)) ∧
        t.model = s.model ∧ t.hum10 = s.hum10 ∧ t.temp10 = s.temp10 ∧ t.mem = s.mem ∧ t.cfg = s.cfg

/-! ## The sampled framer -/

/-- R141, R62: `nextRun` finds exactly the end of the run that starts at p, and answers none exactly when the memory
ends first. -/
def Obligations.NextRunFindsTheEndOfTheRun : Prop :=
  ∀ (s : State) (p : Nat), p < s.cfg.nS →
    (∀ q, nextRun s p = some q ↔ RunEnds s p q) ∧ (nextRun s p = none ↔ NoEnd s p)

/-- R145, R142 to R144 of 42_framer_sampled.md: from p0 on 84 closed runs, each measured one lasting at least `MIN_S`
and at most `CEIL_S`: `DECODE.S` ends `FRAMED` with the frame whose data bit n is 1 exactly when the measured run n
lasts longer than `THR_S`; `ERR`, `NB`, `B`, `ST` and the response are all it writes. -/
def Obligations.DecodeOfACompleteCaptureFrames : Prop :=
  ∀ (s : State) (p0 : Word) (e : Nat → Nat) (f : RawFrame),
    s.st ≠ .run → e 0 = p0.toNat → RunsFrom s e 84 →
    (∀ n < 40, s.cfg.minS ≤ dataRunDuration s.cfg e n ∧ dataRunDuration s.cfg e n ≤ s.cfg.ceilS) →
    (∀ n < 40, frameBit f n = decide (s.cfg.thrS < dataRunDuration s.cfg e n)) →
      exec (.decodeS p0) s =
        .next { s with
          st := .framed, err := .none, nb := 40, b := f, rsp := some (responseWord .done .none 40) }

/-- R146 (a), (b) of 42_framer_sampled.md: a start index outside the memory, or a framing run without an end, is
`Timeout` with no bit decoded and the frame registers at 0. -/
def Obligations.DecodeWithoutFramingRunsTimesOut : Prop :=
  ∀ (s : State) (p0 : Word), s.st ≠ .run →
    (s.cfg.nS ≤ p0.toNat ∨ ∃ e n, n < 4 ∧ e 0 = p0.toNat ∧ RunsFrom s e n ∧ NoEnd s (e n)) →
      exec (.decodeS p0) s =
        .next { s with
          st := .failed, err := .timeout, nb := 0, b := ⟨0, 0, 0, 0, 0⟩,
          rsp := some (responseWord .done .timeout 0) }

/-- R146 (c), (d): at data bit n, after n plausible bits, a bit start or a measured run without an end, or a measured
run below `MIN_S` or above `CEIL_S`, is `Timeout` with `NB` and the response at n. -/
def Obligations.DecodeOfABadDataRunTimesOut : Prop :=
  ∀ (s : State) (p0 : Word) (e : Nat → Nat) (n : Nat),
    s.st ≠ .run → n < 40 → e 0 = p0.toNat → RunsFrom s e (4 + 2 * n) →
    (∀ m < n, s.cfg.minS ≤ dataRunDuration s.cfg e m ∧ dataRunDuration s.cfg e m ≤ s.cfg.ceilS) →
    (NoEnd s (e (4 + 2 * n)) ∨
      (RunsFrom s e (5 + 2 * n) ∧ NoEnd s (e (5 + 2 * n))) ∨
      (RunsFrom s e (6 + 2 * n) ∧
        (dataRunDuration s.cfg e n < s.cfg.minS ∨ s.cfg.ceilS < dataRunDuration s.cfg e n))) →
      ∃ f : RawFrame,
        exec (.decodeS p0) s =
          .next { s with
            st := .failed, err := .timeout, nb := BitVec.ofNat 6 n, b := f,
            rsp := some (responseWord .done .timeout (BitVec.ofNat 32 n)) }

/-- R148 of 42_framer_sampled.md: the round trip. A memory that begins with the synthetic capture of a frame decodes to
that frame, whether or not its checksum is right. -/
def Obligations.SampledRoundTrip : Prop :=
  ∀ (s : State) (f : RawFrame) (r : RunLengths),
    s.st ≠ .run → s.cfg.Ok →
    0 < r.requestLow → 0 < r.requestHigh → 0 < r.initLow → 0 < r.initHigh → 0 < r.closing →
    r.bitStart.length = 40 → (∀ x ∈ r.bitStart, 0 < x) → 0 < r.zeroRun →
    s.cfg.minS ≤ r.zeroRun * 1000000 / s.cfg.fS → r.zeroRun * 1000000 / s.cfg.fS ≤ s.cfg.thrS →
    s.cfg.thrS < r.oneRun * 1000000 / s.cfg.fS → r.oneRun * 1000000 / s.cfg.fS ≤ s.cfg.ceilS →
    (encodeFrame f r).length ≤ s.cfg.nS →
    (∀ a < (encodeFrame f r).length, memRead s a = (encodeFrame f r).getD a false) →
      exec (.decodeS 0) s =
        .next { s with
          st := .framed, err := .none, nb := 40, b := f, rsp := some (responseWord .done .none 40) }

/-- R63, R72 of 20_memory.md: a transfer of the fixed length makes the received buffer the sample memory: sample a is
bit `7 - a mod 8` of byte `a div 8`; nothing else changes. -/
def Obligations.TransferFillsTheSampleMemory : Prop :=
  ∀ (s : State) (buffer : List Byte) (rest : List Input),
    s.port = .transfer buffer :: rest → buffer.length = (s.cfg.nS + 7) / 8 →
      ∃ t : State, step s = .next t ∧ t = { s with port := rest, mem := t.mem } ∧
        ∀ a < s.cfg.nS, memRead t a = (buffer.getD (a / 8) 0).getLsbD (7 - a % 8)

/-- The model's choice (log 12): a transfer of any other length breaks the "fixed length" contract of R228 and stops
the machine. -/
def Obligations.TransferOfAnotherLengthFaults : Prop :=
  ∀ (s : State) (buffer : List Byte) (rest : List Input),
    s.port = .transfer buffer :: rest → buffer.length ≠ (s.cfg.nS + 7) / 8 → step s = .fault .transferLength

/-! ## The checksum and the converter -/

/-- R160, R161 of 43_checksum.md: `CHECK` in `FRAMED` accepts when the sum of the first four bytes modulo 256 is the
fifth, and otherwise raises `ChecksumMismatch`; the frame is not written; in every other stage it is REJECTED. -/
def Obligations.CheckComparesTheSum : Prop :=
  encode .check = 0x0300000000#40 ∧
  ∀ s : State,
    let sum := (s.b.b0.toNat + s.b.b1.toNat + s.b.b2.toNat + s.b.b3.toNat) % 256
    (s.st = .framed → sum = s.b.b4.toNat →
      exec .check s = .next { s with st := .accepted, rsp := some (responseWord .done .none 0) }) ∧
    (s.st = .framed → sum ≠ s.b.b4.toNat →
      exec .check s =
        .next { s with
          st := .failed, err := .checksumMismatch, rsp := some (responseWord .done .checksumMismatch 0) }) ∧
    (s.st ≠ .framed → exec .check s = .next { s with rsp := some (responseWord .rejected s.err 0) })

/-- R162 of 43_checksum.md: for every four bytes exactly one fifth byte is accepted by `CHECK`, and every other one is
rejected with `ChecksumMismatch`. -/
def Obligations.OneChecksumPerFrame : Prop :=
  ∀ (s : State) (b0 b1 b2 b3 : Byte), s.st = .framed →
    ∃ b4 : Byte, ∀ x : Byte,
      ∃ t, exec .check { s with b := ⟨b0, b1, b2, b3, x⟩ } = .next t ∧
        (x = b4 → t.st = .accepted) ∧ (x ≠ b4 → t.st = .failed ∧ t.err = .checksumMismatch)

/-- R167, R170 of 44_converter.md: `CONVERT` under `DHT11` in `ACCEPTED`: ten times `B[0]` and ten times `B[2]`; the
response holds both; nothing else is written (`convs` is the model's own, log 11). -/
def Obligations.ConvertDht11TakesTheHighBytes : Prop :=
  ∀ s : State, s.st = .accepted → s.model = .dht11 →
    ∃ hum temp : BitVec 16,
      exec .convert s =
        .next { s with
          st := .converted, hum10 := hum, temp10 := temp, convs := s.convs + 1,
          rsp := some (responseWord .done .none (hum ++ temp)) } ∧
      hum.toNat = 10 * s.b.b0.toNat ∧ temp.toInt = 10 * (s.b.b2.toNat : Int)

/-- R168, R169, R170 of 44_converter.md: `CONVERT` under `DHT22` in `ACCEPTED`: the humidity halfword unsigned, the
temperature halfword by sign and magnitude; the response holds both; nothing else is written (`convs` is the model's own,
log 11). -/
def Obligations.ConvertDht22IsSignMagnitude : Prop :=
  ∀ s : State, s.st = .accepted → s.model = .dht22 →
    ∃ hum temp : BitVec 16,
      exec .convert s =
        .next { s with
          st := .converted, hum10 := hum, temp10 := temp, convs := s.convs + 1,
          rsp := some (responseWord .done .none (hum ++ temp)) } ∧
      hum.toNat = s.b.b0.toNat * 256 + s.b.b1.toNat ∧
      temp.toInt =
        (if s.b.b2.toNat * 256 + s.b.b3.toNat < 32768 then ((s.b.b2.toNat * 256 + s.b.b3.toNat : Nat) : Int)
          else -(((s.b.b2.toNat * 256 + s.b.b3.toNat : Nat) : Int) - 32768))

/-! ## Whole-machine rules -/

/-- R34 of 10_state.md, R84 and R86 of 30_encoding.md: a command that the stage (or its reserved operand) does not
admit is answered REJECTED with no state change, and an admitted one is never answered REJECTED. -/
def Obligations.RejectedExactlyWhenNotAdmitted : Prop :=
  ∀ (i : Instr) (s : State),
    (admitted i s = false → exec i s = .next { s with rsp := some (responseWord .rejected s.err 0) }) ∧
    (admitted i s = true →
      ∃ (t : State) (a : Ack) (e : ErrorKind) (d : Word),
        exec i s = .next t ∧ a ≠ .rejected ∧ t.rsp = some (responseWord a e d))

/-- R85 of 30_encoding.md: every command is answered once, and the `err` of the response is the value of `ERR` after
the operation; `PENDING` only by a poll that leaves `RUN` running. -/
def Obligations.ResponseCarriesErr : Prop :=
  ∀ (i : Instr) (s t : State), Inv s → exec i s = .next t →
    ∃ (a : Ack) (d : Word), t.rsp = some (responseWord a t.err d) ∧
      (a = .pending → t.st = .run ∧ ∃ level now, i = pollCommand level now)

/-- R34 of 10_state.md: the only transitions of `ST` are those of its table. -/
def Obligations.StageMovesByTheTable : Prop :=
  ∀ (i : Instr) (s t : State), exec i s = .next t → t.st = s.st ∨ stageMove i s.st t.st = true

/-- R31 of 10_state.md: every step from every state that meets the invariants gives a state that meets them. -/
def Obligations.StepKeepsTheInvariant : Prop :=
  ∀ s t : State, Inv s → step s = .next t → Inv t

/-- R35, R41 of 10_state.md: what a stage does not let be read is unobservable: `B` in `IDLE` and `FAILED`, `HUM10` and
`TEMP10` in every stage but `CONVERTED`. Two states that differ only in those give outcomes that differ only so, with the
same response. (In `RUN` the two hold the same `B`: no `RD` shows it there, but the polls shift it into the frame.) -/
def Obligations.UnreadableRegistersAreUnobservable : Prop :=
  ∀ s t : State, SameVisible s t → SameOutcome (step s) (step t)

/-- R23 of 10_state.md, R9 of 00_scope.md: no command but `CONVERT`, `SETMODEL` and `RD MODEL` reads or writes
`MODEL`: with another model such a command does the same. -/
def Obligations.OnlyConvertSetmodelAndRdUseTheModel : Prop :=
  ∀ (i : Instr) (s : State) (m : SensorModel), usesModel i = false →
    exec i { s with model := m } = mapNext (fun t => { t with model := m }) (exec i s)

/-- R7 of 00_scope.md, R67 and R72 of 20_memory.md: no command writes the configuration, the sample memory (every byte
reads as before, before and after) or the inputs. -/
def Obligations.NoCommandWritesMemoryOrConfiguration : Prop :=
  ∀ (i : Instr) (s t : State), exec i s = .next t →
    t.cfg = s.cfg ∧ t.mem = s.mem ∧ t.port = s.port ∧ t.epoch = s.epoch ∧
      ∀ j, readByte t.mem j = readByte s.mem j ∧ sampleByte t j = sampleByte s j

/-- R86 of 30_encoding.md, R240, R250 and R254 of 70_reset_and_hazards.md: in `RUN` a step takes a poll or `rst`, or leaves
`RUN` and every register as they are: waiting with no input changes nothing (log 13), a transfer of the fixed length
replaces the sample memory and nothing else but the port, and every other command word is answered REJECTED, which
changes the port and the response only. -/
def Obligations.OnlyPollsAndResetActInRun : Prop :=
  ∀ s t : State, s.st = .run → step s = .next t →
    (∃ (cw : CommandWord) (rest : List Input) (level : Bool) (now : Word),
      s.port = .command cw :: rest ∧ decode cw = .ok (pollCommand level now)) ∨
    (∃ rest, s.port = .reset :: rest) ∨
    (s.port = [] ∧ t = s) ∨
    (∃ (buffer : List Byte) (rest : List Input),
      s.port = .transfer buffer :: rest ∧ buffer.length = (s.cfg.nS + 7) / 8 ∧
        t = { s with port := rest, mem := cellsFrom 0 buffer }) ∨
    (∃ (cw : CommandWord) (rest : List Input),
      s.port = .command cw :: rest ∧ (∀ level now, decode cw ≠ .ok (pollCommand level now)) ∧
        t = { s with port := rest, rsp := some (responseWord .rejected s.err 0) })

/-- R210, R212, R217 of 60_exceptions.md: an error kind is entered only by the commands that raise it; `IoError`
never. -/
def Obligations.ErrorsComeOnlyFromTheirCommands : Prop :=
  ∀ (i : Instr) (s t : State), exec i s = .next t → t.err ≠ s.err →
    t.err = .none ∨
    (t.err = .timeout ∧ t.st = .failed ∧ ((∃ level now, i = pollCommand level now) ∨ ∃ p0, i = .decodeS p0)) ∨
    (t.err = .checksumMismatch ∧ t.st = .failed ∧ i = .check)

/-! ## The host -/

/-- R193, R194 of 45_control_and_host.md: after a successful `setup` the block is in `IDLE` with `MODEL` the session's
model, `DHT11` or `DHT22`, never `AUTO`, and the session is `Ready`. Under `AUTO` there was exactly one probe: one that
ended in `Timeout` leaves `DHT11`, one that ended in `ChecksumMismatch` or in a Reading, which the session keeps, leaves
`DHT22`; it ends in no other way. -/
def Obligations.SetupLeavesAModelAndIdle : Prop :=
  ∀ (p : HostParams) (m : SensorModel) (v : Variant) (env : ReadEnv) (s : State) (w : World),
    s.st ≠ .run → setupSession p m v true env s = some w →
      w.block.st = .idle ∧ w.block.err = .none ∧ w.block.model = w.session.model ∧ w.session.model ≠ .auto ∧
        w.session.stage = .ready ∧ (m ≠ .auto → w.session.model = m) ∧
        (m = .auto →
          w.session.attempts = 1 ∧
          ((w.session.lastErr = some .timeout ∧ w.session.model = .dht11 ∧ w.session.reading = none) ∨
           (w.session.lastErr = some .checksumMismatch ∧ w.session.model = .dht22 ∧ w.session.reading = none) ∨
           (w.session.lastErr = some .none ∧ w.session.model = .dht22 ∧ ∃ x, w.session.reading = some x)))

/-- R194 of 45_control_and_host.md: a line that stays high under the probe, any number of polls within the ceiling and
then one past it, makes the detector settle on `DHT11` after exactly one probe. -/
def Obligations.DetectionOfASilentLineIsDht11 : Prop :=
  ∀ (p : HostParams) (env : ReadEnv) (s : State) (waiting : List Word) (now : Word) (rest : List (Bool × Word)),
    s.st ≠ .run → env.polls = waiting.map (fun t => (true, t)) ++ (true, now) :: rest →
    (∀ t ∈ waiting, ((t.toNat : Int) - env.startNow.toNat) % 2 ^ 32 ≤ s.cfg.ceilE) →
    (s.cfg.ceilE : Int) < ((now.toNat : Int) - env.startNow.toNat) % 2 ^ 32 →
      ∃ w : World, setupSession p .auto .edge true env s = some w ∧
        w.session.model = .dht11 ∧ w.block.model = .dht11 ∧ w.block.st = .idle ∧
        w.session.attempts = 1 ∧ w.session.lastErr = some .timeout

/-- R192, R197, R218 of 45_control_and_host.md and 60_exceptions.md: a read of a `Ready` session returns to `Ready`
with either a Reading, the block `CONVERTED`, or the error kind of the block, the block `FAILED` and the session's last
Reading and its time as they were. -/
def Obligations.ReadEndsInAReadingOrAnError : Prop :=
  ∀ (p : HostParams) (env : ReadEnv) (w w' : World) (r : ReadResult),
    w.session.stage = .ready → w.block.st ≠ .run → w.block.model ≠ .auto →
    readSession p env w = some (w', r) →
      w'.session.stage = .ready ∧
      ((∃ x, r = .reading x ∧ w'.session.reading = some x ∧ w'.session.lastErr = some .none ∧
          w'.session.lastOk = some env.doneNow ∧ w'.block.st = .converted ∧ w'.block.err = .none) ∨
       (∃ k, r = .error (some k) ∧ w'.session.lastErr = some k ∧ w'.session.reading = w.session.reading ∧
          w'.session.lastOk = w.session.lastOk ∧ w'.block.st = .failed ∧ w'.block.err = k ∧
          (k = .timeout ∨ k = .checksumMismatch)))

/-- R196 of 45_control_and_host.md: a read on a GPIO line first drives high, low for the model's request time, high,
and then receives; the low phase is longer for `DHT11` than for `DHT22`. (On an SPI bus:
`SampledReadTransmitsItsRequest`.) -/
def Obligations.ReadDrivesTheRequestOfItsModel : Prop :=
  (∀ (p : HostParams) (env : ReadEnv) (w w' : World) (r : ReadResult),
    w.session.stage = .ready → w.session.variant = .edge → readSession p env w = some (w', r) →
      w'.line = w.line ++
        [.directionOut, .writeHigh, .writeLow, .hold (requestLow p w.session.model), .writeHigh, .directionIn]) ∧
  (∀ p : HostParams, p.Ok → requestLow p .dht22 < requestLow p .dht11)

/-- R193, R197 of 45_control_and_host.md, R213 of 60_exceptions.md: when the transport cannot be acquired the session is
`Faulted` with `IoError`, the block is sent nothing, and a later read issues no command and returns `IoError`. (That the
transport log is empty is the model's choice, log 24.) -/
def Obligations.FailedSetupFaultsTheSession : Prop :=
  ∀ (p : HostParams) (m : SensorModel) (v : Variant) (env : ReadEnv) (s : State),
    ∃ w : World, setupSession p m v false env s = some w ∧
      w.block = s ∧ w.session.stage = .faulted ∧ w.session.lastErr = some .ioError ∧ w.line = [] ∧
      ∀ env' : ReadEnv, readSession p env' w = some (w, .error (some .ioError))

/-- R198 of 45_control_and_host.md: before the first success `humidity` and `temperature` have no value; while the last
error is `None` they are the fields of the Reading. (After a failed read they are free values, log 16.) -/
def Obligations.AccessorsReturnTheReading : Prop :=
  (∀ (m : SensorModel) (v : Variant),
    sessionHumidity (newSession m v) = none ∧ sessionTemperature (newSession m v) = none) ∧
  (∀ (h : Session) (r : Reading), h.reading = some r → h.lastErr = some .none →
    sessionHumidity h = some r.humidity ∧ sessionTemperature h = some r.temperature)

/-- R200, R197 of 45_control_and_host.md: `teardown` outside a read leaves the block in `IDLE` with no error, `MODEL`
and every data register as they were, releases the transport, and leaves an `Uninitialized` session without a Reading or
an error; a later read issues no command and returns the last error, of which there is none (log 16). -/
def Obligations.TeardownClearsAndReleases : Prop :=
  ∀ w : World, w.block.st ≠ .run →
    ∃ w' : World, teardownSession w = some w' ∧
      w'.block = { w.block with st := .idle, err := .none, rsp := some (responseWord .done .none 0) } ∧
      w'.line = w.line ++ [.release] ∧
      w'.session.stage = .uninitialized ∧ w'.session.lastErr = none ∧ w'.session.lastOk = none ∧
      sessionHumidity w'.session = none ∧ sessionTemperature w'.session = none ∧
      ∀ (p : HostParams) (env : ReadEnv), readSession p env w' = some (w', .error none)

/-- R204, R196 of 45_control_and_host.md, R228 of 60_exceptions.md, R244 of 70_reset_and_hazards.md: a read on an SPI
bus makes one full-duplex transfer of the fixed length, transmits low exactly in the samples before the model's request
time and high after it, and decodes the received buffer; a capture that shows its own request starts inside it,
`S[0]` = 0. Where the two request times are at least one sample apart and the shorter one fits, the patterns of `DHT11`
and `DHT22` differ: some sample is low in the first and high in the second, and none the other way (log 23). -/
def Obligations.SampledReadTransmitsItsRequest : Prop :=
  (∀ (p : HostParams) (env : ReadEnv) (w : World),
    w.session.stage = .ready → w.session.variant = .sampled →
    env.buffer.length = (w.block.cfg.nS + 7) / 8 →
      ∃ (w' : World) (r : ReadResult) (sent : List Byte),
        readSession p env w = some (w', r) ∧ w'.line = w.line ++ [.transfer sent] ∧
        sent.length = (w.block.cfg.nS + 7) / 8 ∧
        (∀ a < w.block.cfg.nS,
          (sent.getD (a / 8) 0).getLsbD (7 - a % 8) =
            decide (requestLow p w.session.model * w.block.cfg.fS ≤ a * 1000000)) ∧
        (∀ a < w.block.cfg.nS, memRead w'.block a = (env.buffer.getD (a / 8) 0).getLsbD (7 - a % 8)) ∧
        (∀ elapsed releaseTime startTime : Nat,
          p.Ok → w.block.cfg.Ok → CycleStart p env w elapsed releaseTime startTime → memRead w'.block 0 = false)) ∧
  (∀ (p : HostParams) (c : Params),
    p.Ok → c.Ok → 1000000 ≤ (p.reqLow11 - p.reqLow22) * c.fS → (p.reqLow22 * c.fS) + 1000000 ≤ c.nS * 1000000 →
      (∃ a < c.nS, bufferBit (requestPattern p .dht11 c) a = false ∧ bufferBit (requestPattern p .dht22 c) a = true) ∧
      (∀ a < c.nS, bufferBit (requestPattern p .dht22 c) a = false → bufferBit (requestPattern p .dht11 c) a = false))
end

