-- ==== Sys2Proof/Laws/Decode.lean ====
section
/-! SUPPORT. The fields of command and response words, and what each step of the decoder can answer. -/

namespace Sys2Proof

/-- A word appended above an `n`-bit word, as a number. -/
theorem append_toNat {m n : Nat} (x : BitVec m) (y : BitVec n) : (x ++ y).toNat = x.toNat * 2 ^ n + y.toNat := by
  rw [BitVec.toNat_append, ← Nat.shiftLeft_add_eq_or_of_lt y.isLt, Nat.shiftLeft_eq]

/-- `{OPC, ARG}` as a number (R80 of 30_encoding.md). -/
theorem commandWord_toNat (opc : Byte) (arg : Word) :
    (commandWord opc arg).toNat = opc.toNat * 2 ^ 32 + arg.toNat := append_toNat opc arg

theorem opcodeOf_toNat (cw : CommandWord) : (opcodeOf cw).toNat = cw.toNat / 2 ^ 32 := by
  have := cw.isLt
  rw [opcodeOf, BitVec.extractLsb'_toNat, Nat.shiftRight_eq_div_pow]
  omega

theorem argumentOf_toNat (cw : CommandWord) : (argumentOf cw).toNat = cw.toNat % 2 ^ 32 := by
  simp [argumentOf]

@[simp] theorem opcodeOf_commandWord (opc : Byte) (arg : Word) : opcodeOf (commandWord opc arg) = opc := by
  apply BitVec.eq_of_toNat_eq
  have := arg.isLt
  rw [opcodeOf_toNat, commandWord_toNat]
  omega

@[simp] theorem argumentOf_commandWord (opc : Byte) (arg : Word) : argumentOf (commandWord opc arg) = arg := by
  apply BitVec.eq_of_toNat_eq
  have := arg.isLt
  rw [argumentOf_toNat, commandWord_toNat]
  omega

/-- A command word is its opcode and its argument, and nothing else. -/
theorem commandWord_fields (cw : CommandWord) : commandWord (opcodeOf cw) (argumentOf cw) = cw := by
  apply BitVec.eq_of_toNat_eq
  rw [commandWord_toNat, opcodeOf_toNat, argumentOf_toNat]
  omega

/-- Format Z answers its command exactly on a zero argument. -/
theorem formatZ_eq_ok {arg : Word} {i j : Instr} : formatZ arg i = .ok j ↔ arg = 0 ∧ i = j := by
  unfold formatZ
  split <;> simp_all

/-- Format V answers exactly when the argument is a value of n bits with zeros above it. -/
theorem formatV_eq_ok {n : Nat} {arg : Word} {k : BitVec n → Except Reserved Instr} {j : Instr} :
    formatV n arg k = .ok j ↔ arg >>> n = 0 ∧ k (arg.setWidth n) = .ok j := by
  unfold formatV
  split <;> simp_all

theorem decodeSetmodel_eq_ok {m : BitVec 2} {j : Instr} :
    decodeSetmodel m = .ok j ↔ m ≠ 3 ∧ .setmodel m = j := by
  unfold decodeSetmodel
  split <;> simp_all

theorem decodeRd_eq_ok {r : BitVec 5} {j : Instr} :
    decodeRd r = .ok j ↔ registerNumbers.contains r = true ∧ .rd r = j := by
  unfold decodeRd
  split <;> simp_all

/-- A value of n bits, zero-extended, has zeros above bit n and is read back. -/
theorem setWidth_argument {n : Nat} (v : BitVec n) (hn : n ≤ 32) :
    (v.setWidth 32 : Word) >>> n = 0 ∧ (v.setWidth 32 : Word).setWidth n = v := by
  have hv : (v.setWidth 32 : Word).toNat = v.toNat := by
    rw [BitVec.toNat_setWidth]
    exact Nat.mod_eq_of_lt (lt_of_lt_of_le v.isLt (Nat.pow_le_pow_right (by omega) hn))
  constructor <;> apply BitVec.eq_of_toNat_eq
  · rw [BitVec.toNat_ushiftRight, hv, Nat.shiftRight_eq_div_pow]
    exact Nat.div_eq_of_lt v.isLt
  · rw [BitVec.toNat_setWidth, hv, Nat.mod_eq_of_lt v.isLt]

/-- An argument with zeros above bit n is the zero extension of its low n bits. -/
theorem argument_setWidth {n : Nat} {arg : Word} (h : arg >>> n = 0) : ((arg.setWidth n).setWidth 32 : Word) = arg := by
  apply BitVec.eq_of_toNat_eq
  have h1 : arg.toNat / 2 ^ n = 0 := by
    have := congrArg BitVec.toNat h
    simpa [BitVec.toNat_ushiftRight, Nat.shiftRight_eq_div_pow] using this
  have h2 : arg.toNat < 2 ^ n := by
    rcases Nat.div_eq_zero_iff.mp h1 with h | h
    · exact absurd h (by positivity)
    · exact h
  simp [Nat.mod_eq_of_lt h2, Nat.mod_eq_of_lt arg.isLt]

namespace Machine

/-- The response word as a number (R85 of 30_encoding.md). -/
theorem responseWord_toNat (a : Ack) (e : ErrorKind) (d : Word) :
    (responseWord a e d).toNat = ((ackCode a).toNat * 2 ^ 2 + (errorCode e).toNat) * 2 ^ 32 + d.toNat := by
  have h : (responseWord a e d).toNat = (ackCode a ++ errorCode e).toNat * 2 ^ 32 + d.toNat :=
    append_toNat (ackCode a ++ errorCode e) d
  rw [h, append_toNat]

@[simp] theorem responseAck_responseWord (a : Ack) (e : ErrorKind) (d : Word) :
    responseAck (responseWord a e d) = ackCode a := by
  apply BitVec.eq_of_toNat_eq
  have := d.isLt; have := (errorCode e).isLt; have := (ackCode a).isLt
  rw [responseAck, BitVec.extractLsb'_toNat, Nat.shiftRight_eq_div_pow, responseWord_toNat]
  omega

@[simp] theorem responseErr_responseWord (a : Ack) (e : ErrorKind) (d : Word) :
    responseErr (responseWord a e d) = errorCode e := by
  apply BitVec.eq_of_toNat_eq
  have := d.isLt; have := (errorCode e).isLt
  rw [responseErr, BitVec.extractLsb'_toNat, Nat.shiftRight_eq_div_pow, responseWord_toNat]
  omega

@[simp] theorem responseData_responseWord (a : Ack) (e : ErrorKind) (d : Word) :
    responseData (responseWord a e d) = d := by
  apply BitVec.eq_of_toNat_eq
  have := d.isLt
  rw [responseData, BitVec.extractLsb'_toNat, Nat.shiftRight_eq_div_pow, responseWord_toNat]
  omega

theorem ackCode_injective {a b : Ack} (h : ackCode a = ackCode b) : a = b := by
  cases a <;> cases b <;> first | rfl | exact absurd h (by decide)

theorem errorCode_injective {a b : ErrorKind} (h : errorCode a = errorCode b) : a = b := by
  cases a <;> cases b <;> first | rfl | exact absurd h (by decide)

@[simp] theorem errorOfCode_errorCode (e : ErrorKind) : errorOfCode (errorCode e) = e := by
  cases e <;> decide

@[simp] theorem modelOfCode_modelCode (m : SensorModel) : modelOfCode (modelCode m) = some m := by
  cases m <;> decide

@[simp] theorem regOfNumber_regNumber (r : Reg) : regOfNumber (regNumber r) = some r := by
  cases r <;> decide

end Machine

end Sys2Proof
end

