-- ==== Sys2Proof/Laws/State.lean ====
section
/-! SUPPORT. One lemma per field for every shared operation that updates the state, each true by rfl, so that no proof
unfolds a record update. -/

namespace Sys2Proof.Machine

@[simp] theorem respond_cfg (a : Ack) (e : ErrorKind) (d : Word) (s : State) : (respond a e d s).cfg = s.cfg := rfl
@[simp] theorem respond_st (a : Ack) (e : ErrorKind) (d : Word) (s : State) : (respond a e d s).st = s.st := rfl
@[simp] theorem respond_err (a : Ack) (e : ErrorKind) (d : Word) (s : State) : (respond a e d s).err = s.err := rfl
@[simp] theorem respond_model (a : Ack) (e : ErrorKind) (d : Word) (s : State) : (respond a e d s).model = s.model := rfl
@[simp] theorem respond_idx (a : Ack) (e : ErrorKind) (d : Word) (s : State) : (respond a e d s).idx = s.idx := rfl
@[simp] theorem respond_nb (a : Ack) (e : ErrorKind) (d : Word) (s : State) : (respond a e d s).nb = s.nb := rfl
@[simp] theorem respond_t0 (a : Ack) (e : ErrorKind) (d : Word) (s : State) : (respond a e d s).t0 = s.t0 := rfl
@[simp] theorem respond_b (a : Ack) (e : ErrorKind) (d : Word) (s : State) : (respond a e d s).b = s.b := rfl
@[simp] theorem respond_hum10 (a : Ack) (e : ErrorKind) (d : Word) (s : State) : (respond a e d s).hum10 = s.hum10 := rfl
@[simp] theorem respond_temp10 (a : Ack) (e : ErrorKind) (d : Word) (s : State) : (respond a e d s).temp10 = s.temp10 := rfl
@[simp] theorem respond_mem (a : Ack) (e : ErrorKind) (d : Word) (s : State) : (respond a e d s).mem = s.mem := rfl
@[simp] theorem respond_port (a : Ack) (e : ErrorKind) (d : Word) (s : State) : (respond a e d s).port = s.port := rfl
@[simp] theorem respond_rsp (a : Ack) (e : ErrorKind) (d : Word) (s : State) : (respond a e d s).rsp = some (responseWord a e d) := rfl
@[simp] theorem respond_epoch (a : Ack) (e : ErrorKind) (d : Word) (s : State) : (respond a e d s).epoch = s.epoch := rfl
@[simp] theorem respond_convs (a : Ack) (e : ErrorKind) (d : Word) (s : State) : (respond a e d s).convs = s.convs := rfl

@[simp] theorem reject_cfg (s : State) : (reject s).cfg = s.cfg := rfl
@[simp] theorem reject_st (s : State) : (reject s).st = s.st := rfl
@[simp] theorem reject_err (s : State) : (reject s).err = s.err := rfl
@[simp] theorem reject_model (s : State) : (reject s).model = s.model := rfl
@[simp] theorem reject_idx (s : State) : (reject s).idx = s.idx := rfl
@[simp] theorem reject_nb (s : State) : (reject s).nb = s.nb := rfl
@[simp] theorem reject_t0 (s : State) : (reject s).t0 = s.t0 := rfl
@[simp] theorem reject_b (s : State) : (reject s).b = s.b := rfl
@[simp] theorem reject_hum10 (s : State) : (reject s).hum10 = s.hum10 := rfl
@[simp] theorem reject_temp10 (s : State) : (reject s).temp10 = s.temp10 := rfl
@[simp] theorem reject_mem (s : State) : (reject s).mem = s.mem := rfl
@[simp] theorem reject_port (s : State) : (reject s).port = s.port := rfl
@[simp] theorem reject_rsp (s : State) : (reject s).rsp = some (responseWord .rejected s.err 0) := rfl
@[simp] theorem reject_epoch (s : State) : (reject s).epoch = s.epoch := rfl
@[simp] theorem reject_convs (s : State) : (reject s).convs = s.convs := rfl

@[simp] theorem raiseError_cfg (k : ErrorKind) (d : Word) (s : State) : (raiseError k d s).cfg = s.cfg := rfl
@[simp] theorem raiseError_st (k : ErrorKind) (d : Word) (s : State) : (raiseError k d s).st = .failed := rfl
@[simp] theorem raiseError_err (k : ErrorKind) (d : Word) (s : State) : (raiseError k d s).err = k := rfl
@[simp] theorem raiseError_model (k : ErrorKind) (d : Word) (s : State) : (raiseError k d s).model = s.model := rfl
@[simp] theorem raiseError_idx (k : ErrorKind) (d : Word) (s : State) : (raiseError k d s).idx = s.idx := rfl
@[simp] theorem raiseError_nb (k : ErrorKind) (d : Word) (s : State) : (raiseError k d s).nb = s.nb := rfl
@[simp] theorem raiseError_t0 (k : ErrorKind) (d : Word) (s : State) : (raiseError k d s).t0 = s.t0 := rfl
@[simp] theorem raiseError_b (k : ErrorKind) (d : Word) (s : State) : (raiseError k d s).b = s.b := rfl
@[simp] theorem raiseError_hum10 (k : ErrorKind) (d : Word) (s : State) : (raiseError k d s).hum10 = s.hum10 := rfl
@[simp] theorem raiseError_temp10 (k : ErrorKind) (d : Word) (s : State) : (raiseError k d s).temp10 = s.temp10 := rfl
@[simp] theorem raiseError_mem (k : ErrorKind) (d : Word) (s : State) : (raiseError k d s).mem = s.mem := rfl
@[simp] theorem raiseError_port (k : ErrorKind) (d : Word) (s : State) : (raiseError k d s).port = s.port := rfl
@[simp] theorem raiseError_rsp (k : ErrorKind) (d : Word) (s : State) : (raiseError k d s).rsp = some (responseWord .done k d) := rfl
@[simp] theorem raiseError_epoch (k : ErrorKind) (d : Word) (s : State) : (raiseError k d s).epoch = s.epoch := rfl
@[simp] theorem raiseError_convs (k : ErrorKind) (d : Word) (s : State) : (raiseError k d s).convs = s.convs := rfl

@[simp] theorem takeInput_cfg (s : State) : (takeInput s).cfg = s.cfg := rfl
@[simp] theorem takeInput_st (s : State) : (takeInput s).st = s.st := rfl
@[simp] theorem takeInput_err (s : State) : (takeInput s).err = s.err := rfl
@[simp] theorem takeInput_model (s : State) : (takeInput s).model = s.model := rfl
@[simp] theorem takeInput_idx (s : State) : (takeInput s).idx = s.idx := rfl
@[simp] theorem takeInput_nb (s : State) : (takeInput s).nb = s.nb := rfl
@[simp] theorem takeInput_t0 (s : State) : (takeInput s).t0 = s.t0 := rfl
@[simp] theorem takeInput_b (s : State) : (takeInput s).b = s.b := rfl
@[simp] theorem takeInput_hum10 (s : State) : (takeInput s).hum10 = s.hum10 := rfl
@[simp] theorem takeInput_temp10 (s : State) : (takeInput s).temp10 = s.temp10 := rfl
@[simp] theorem takeInput_mem (s : State) : (takeInput s).mem = s.mem := rfl
@[simp] theorem takeInput_port (s : State) : (takeInput s).port = s.port.tail := rfl
@[simp] theorem takeInput_rsp (s : State) : (takeInput s).rsp = s.rsp := rfl
@[simp] theorem takeInput_epoch (s : State) : (takeInput s).epoch = s.epoch := rfl
@[simp] theorem takeInput_convs (s : State) : (takeInput s).convs = s.convs := rfl

@[simp] theorem applyReset_cfg (s : State) : (applyReset s).cfg = s.cfg := rfl
@[simp] theorem applyReset_st (s : State) : (applyReset s).st = .idle := rfl
@[simp] theorem applyReset_err (s : State) : (applyReset s).err = .none := rfl
@[simp] theorem applyReset_model (s : State) : (applyReset s).model = .auto := rfl
@[simp] theorem applyReset_idx (s : State) : (applyReset s).idx = 0 := rfl
@[simp] theorem applyReset_nb (s : State) : (applyReset s).nb = 0 := rfl
@[simp] theorem applyReset_t0 (s : State) : (applyReset s).t0 = 0 := rfl
@[simp] theorem applyReset_b (s : State) : (applyReset s).b = RawFrame.zero := rfl
@[simp] theorem applyReset_hum10 (s : State) : (applyReset s).hum10 = 0 := rfl
@[simp] theorem applyReset_temp10 (s : State) : (applyReset s).temp10 = 0 := rfl
@[simp] theorem applyReset_mem (s : State) : (applyReset s).mem = [] := rfl
@[simp] theorem applyReset_port (s : State) : (applyReset s).port = s.port := rfl
@[simp] theorem applyReset_rsp (s : State) : (applyReset s).rsp = none := rfl
@[simp] theorem applyReset_epoch (s : State) : (applyReset s).epoch = s.epoch + 1 := rfl
@[simp] theorem applyReset_convs (s : State) : (applyReset s).convs = s.convs := rfl

@[simp] theorem writeReading_cfg (hum temp : BitVec 16) (s : State) : (writeReading hum temp s).cfg = s.cfg := rfl
@[simp] theorem writeReading_st (hum temp : BitVec 16) (s : State) : (writeReading hum temp s).st = .converted := rfl
@[simp] theorem writeReading_err (hum temp : BitVec 16) (s : State) : (writeReading hum temp s).err = s.err := rfl
@[simp] theorem writeReading_model (hum temp : BitVec 16) (s : State) : (writeReading hum temp s).model = s.model := rfl
@[simp] theorem writeReading_idx (hum temp : BitVec 16) (s : State) : (writeReading hum temp s).idx = s.idx := rfl
@[simp] theorem writeReading_nb (hum temp : BitVec 16) (s : State) : (writeReading hum temp s).nb = s.nb := rfl
@[simp] theorem writeReading_t0 (hum temp : BitVec 16) (s : State) : (writeReading hum temp s).t0 = s.t0 := rfl
@[simp] theorem writeReading_b (hum temp : BitVec 16) (s : State) : (writeReading hum temp s).b = s.b := rfl
@[simp] theorem writeReading_hum10 (hum temp : BitVec 16) (s : State) : (writeReading hum temp s).hum10 = hum := rfl
@[simp] theorem writeReading_temp10 (hum temp : BitVec 16) (s : State) : (writeReading hum temp s).temp10 = temp := rfl
@[simp] theorem writeReading_mem (hum temp : BitVec 16) (s : State) : (writeReading hum temp s).mem = s.mem := rfl
@[simp] theorem writeReading_port (hum temp : BitVec 16) (s : State) : (writeReading hum temp s).port = s.port := rfl
@[simp] theorem writeReading_rsp (hum temp : BitVec 16) (s : State) : (writeReading hum temp s).rsp = some (responseWord .done .none (hum ++ temp)) := rfl
@[simp] theorem writeReading_epoch (hum temp : BitVec 16) (s : State) : (writeReading hum temp s).epoch = s.epoch := rfl
@[simp] theorem writeReading_convs (hum temp : BitVec 16) (s : State) : (writeReading hum temp s).convs = s.convs + 1 := rfl

end Sys2Proof.Machine
end

