-- ==== Sys2Proof/Laws/Ops.lean ====
section
/-! SUPPORT. For each shared operation, one lemma that says everything it can do: memory, the step, the poll, the scan,
the conversion, the readable registers. -/

namespace Sys2Proof.Machine

/-! ### The sample memory -/

/-- Every entry of a received buffer lies at or after the first address. -/
theorem cellsFrom_le {j : Nat} {buffer : List Byte} {x : Host.Cell} (h : x ∈ cellsFrom j buffer) :
    j ≤ x.1 ∧ x.1 < j + buffer.length := by
  induction buffer generalizing j with
  | nil => simp [cellsFrom] at h
  | cons v rest ih =>
    simp only [cellsFrom, List.mem_cons] at h
    rcases h with rfl | h
    · simp
    · have := ih h
      simp only [List.length_cons]
      omega

/-- A received buffer is in canonical form (the one operation that writes the memory). -/
theorem cellsFrom_wf (j : Nat) (buffer : List Byte) : Memory.wf (cellsFrom j buffer) := by
  induction buffer generalizing j with
  | nil => simp [Memory.wf, cellsFrom]
  | cons v rest ih =>
    simp only [Memory.wf, cellsFrom, List.map_cons, List.pairwise_cons]
    refine ⟨fun a ha => ?_, ih (j + 1)⟩
    obtain ⟨x, hx, rfl⟩ := List.mem_map.mp ha
    exact (cellsFrom_le hx).1

/-- What is read back from a received buffer: its bytes, and nothing outside it. -/
theorem readByte_cellsFrom (j : Nat) (buffer : List Byte) (a : Nat) :
    readByte (cellsFrom j buffer) (j + a) = buffer[a]? := by
  induction buffer generalizing j a with
  | nil => simp [cellsFrom, readByte]
  | cons v rest ih =>
    simp only [cellsFrom, readByte]
    cases a with
    | zero => simp
    | succ a =>
      rw [if_neg (by omega), show j + (a + 1) = j + 1 + a by omega, ih, List.getElem?_cons_succ]

/-- The reset memory and the memory after a transfer are canonical; no other operation writes the memory. -/
theorem applyReset_memory_wf (s : State) : Memory.wf (applyReset s).mem := by simp [Memory.wf]

/-- What a transfer can do: a buffer of the fixed length becomes the memory, any other stops the machine. -/
theorem applyTransfer_next {buffer : List Byte} {s t : State} :
    applyTransfer buffer s = .next t ↔
      buffer.length = bufferBytes s.cfg ∧ t = { s with mem := cellsFrom 0 buffer } := by
  unfold applyTransfer
  split <;> simp_all [eq_comm]

/-- A sample depends on the memory and the reset count only. -/
theorem memRead_congr {s t : State} (hm : t.mem = s.mem) (he : t.epoch = s.epoch) (a : Nat) :
    memRead t a = memRead s a := by
  simp [memRead, sampleByte, hm, he]

/-! ### The step -/

theorem step_reset {s : State} {rest : List Input} (h : s.port = .reset :: rest) :
    step s = .next (applyReset (takeInput s)) := by
  simp [step, h]

theorem step_transfer {s : State} {buffer : List Byte} {rest : List Input} (h : s.port = .transfer buffer :: rest) :
    step s = applyTransfer buffer (takeInput s) := by
  simp [step, h]

/-- A word that decodes runs its command. -/
theorem step_command {s : State} {cw : CommandWord} {rest : List Input} {i : Instr}
    (h : s.port = .command cw :: rest) (hd : decode cw = .ok i) : step s = exec i (takeInput s) := by
  simp [step, h, hd]

/-- A reserved word is answered REJECTED. -/
theorem step_reserved {s : State} {cw : CommandWord} {rest : List Input} {why : Reserved}
    (h : s.port = .command cw :: rest) (hd : decode cw = .error why) : step s = .next (reject (takeInput s)) := by
  simp [step, h, hd]

/-- Everything a step can do. -/
theorem step_cases {s t : State} (h : step s = .next t) :
    (s.port = [] ∧ t = s) ∨
    (∃ rest, s.port = .reset :: rest ∧ t = applyReset (takeInput s)) ∨
    (∃ buffer rest, s.port = .transfer buffer :: rest ∧ buffer.length = bufferBytes s.cfg ∧
      t = { takeInput s with mem := cellsFrom 0 buffer }) ∨
    (∃ cw rest why, s.port = .command cw :: rest ∧ decode cw = .error why ∧ t = reject (takeInput s)) ∨
    (∃ cw rest i, s.port = .command cw :: rest ∧ decode cw = .ok i ∧ exec i (takeInput s) = .next t) := by
  match hp : s.port with
  | [] =>
    simp only [step, hp] at h
    cases h
    exact .inl ⟨rfl, rfl⟩
  | .reset :: rest =>
    rw [step_reset hp] at h
    cases h
    exact .inr (.inl ⟨rest, rfl, rfl⟩)
  | .transfer buffer :: rest =>
    rw [step_transfer hp, applyTransfer_next] at h
    exact .inr (.inr (.inl ⟨buffer, rest, rfl, h.1, h.2⟩))
  | .command cw :: rest =>
    match hd : decode cw with
    | .error why =>
      rw [step_reserved hp hd] at h
      cases h
      exact .inr (.inr (.inr (.inl ⟨cw, rest, why, rfl, hd, rfl⟩)))
    | .ok i =>
      rw [step_command hp hd] at h
      exact .inr (.inr (.inr (.inr ⟨cw, rest, i, rfl, hd, h⟩)))

/-! ### The poll -/

theorem takeInput_of_port {s : State} {x : Input} {rest : List Input} (h : s.port = x :: rest) :
    takeInput s = { s with port := rest } := by
  simp [takeInput, h]

/-- The four things a poll can do (R124 of 41_framer_edge.md). -/
theorem poll_cases (level : Bool) (now : Word) (s : State) :
    (s.st ≠ .run ∧ poll level now s = reject s) ∨
    (s.st = .run ∧ s.cfg.ceilE < age now s.t0 ∧
      poll level now s = raiseError .timeout (s.idx.signExtend 32) s) ∨
    (s.st = .run ∧ age now s.t0 ≤ s.cfg.ceilE ∧ level = phaseLevel s.idx ∧
      poll level now s = respond .pending .none (s.idx.signExtend 32) s) ∨
    (s.st = .run ∧ age now s.t0 ≤ s.cfg.ceilE ∧ level ≠ phaseLevel s.idx ∧ poll level now s = observeEdge now s) := by
  unfold poll
  split
  · exact .inl ⟨‹_›, rfl⟩
  · rename_i h
    have h : s.st = .run := Decidable.not_not.mp h
    split
    · exact .inr (.inl ⟨h, ‹_›, rfl⟩)
    · rename_i h2
      have h2 := Nat.le_of_not_lt h2
      split
      · exact .inr (.inr (.inl ⟨h, h2, ‹_›, rfl⟩))
      · exact .inr (.inr (.inr ⟨h, h2, ‹_›, rfl⟩))

/-- The fields that shifting a phase's bit in leaves. -/
theorem shiftPhaseBit_rest (now : Word) (s : State) :
    shiftPhaseBit now s = { s with b := (shiftPhaseBit now s).b, nb := (shiftPhaseBit now s).nb } := by
  unfold shiftPhaseBit
  split <;> rfl

/-- The level of a phase is the parity of its index (R121 of 41_framer_edge.md). -/
theorem phaseLevel_eq (i : BitVec 8) : phaseLevel i = decide (i.toInt % 2 = 1) := by
  revert i
  decide

/-- A data phase is an odd phase from 1 on (R124). -/
theorem isDataPhase_eq (i : BitVec 8) : isDataPhase i = decide (1 ≤ i.toInt ∧ i.toInt % 2 = 1) := by
  simp [isDataPhase, phaseLevel_eq]

/-- A bit shifted into a byte: twice the byte plus the bit, modulo 256 (R65 of 20_memory.md). -/
theorem shiftIn_toNat (b : Byte) (bit : Bool) :
    (shiftIn b bit).toNat = (2 * b.toNat + (if bit then 1 else 0)) % 256 := by
  revert b
  cases bit <;> decide

/-! ### The scan of the sample memory -/

/-- What the scan answers: the first sample of the other level, or none when there is none (R141). -/
theorem scanRun_eq_some {s : State} {level : Bool} {left q r : Nat} :
    scanRun s level left q = some r ↔
      q ≤ r ∧ r < q + left ∧ (∀ a, q ≤ a → a < r → memRead s a = level) ∧ memRead s r ≠ level := by
  induction left generalizing q with
  | zero =>
    simp only [scanRun, Nat.add_zero]
    constructor
    · intro h; exact absurd h (by simp)
    · rintro ⟨h1, h2, -⟩; omega
  | succ left ih =>
    simp only [scanRun]
    by_cases h : memRead s q = level
    · rw [if_pos h, ih]
      constructor
      · rintro ⟨h1, h2, h3, h4⟩
        refine ⟨by omega, by omega, fun a ha hr => ?_, h4⟩
        rcases Nat.lt_or_ge q a with hq | hq
        · exact h3 a hq hr
        · rwa [Nat.le_antisymm hq ha]
      · rintro ⟨h1, h2, h3, h4⟩
        have hne : q ≠ r := fun e => h4 (e ▸ h)
        exact ⟨by omega, by omega, fun a ha hr => h3 a (by omega) hr, h4⟩
    · rw [if_neg h, Option.some.injEq]
      constructor
      · rintro rfl
        exact ⟨Nat.le_refl _, by omega, fun a ha hr => absurd hr (by omega), h⟩
      · rintro ⟨h1, h2, h3, h4⟩
        rcases Nat.lt_or_ge q r with hq | hq
        · exact absurd (h3 q (Nat.le_refl _) hq) h
        · omega

theorem scanRun_eq_none {s : State} {level : Bool} {left q : Nat} :
    scanRun s level left q = none ↔ ∀ a, q ≤ a → a < q + left → memRead s a = level := by
  induction left generalizing q with
  | zero =>
    simp only [scanRun, Nat.add_zero, true_iff]
    intro a h1 h2; omega
  | succ left ih =>
    simp only [scanRun]
    by_cases h : memRead s q = level
    · rw [if_pos h, ih]
      constructor
      · intro h3 a h1 h2
        rcases Nat.lt_or_ge q a with hq | hq
        · exact h3 a hq (by omega)
        · rwa [Nat.le_antisymm hq h1]
      · intro h3 a h1 h2
        exact h3 a (by omega) (by omega)
    · rw [if_neg h]
      constructor
      · intro h3; exact absurd h3 (by simp)
      · intro h3; exact absurd (h3 q (Nat.le_refl _) (by omega)) h

/-- The end of `DECODE.S`: everything it can do (R145, R146 of 42_framer_sampled.md). -/
theorem finishDecode_cases (c : Capture) (s : State) :
    (c.complete = true ∧ finishDecode c s =
      { s with st := .framed, err := .none, nb := c.nb, b := c.frame, rsp := some (responseWord .done .none 40) }) ∨
    (c.complete = false ∧ finishDecode c s =
      { s with
        st := .failed, err := .timeout, nb := c.nb, b := c.frame,
        rsp := some (responseWord .done .timeout (c.nb.setWidth 32)) }) := by
  unfold finishDecode
  cases c.complete
  · exact .inr ⟨rfl, rfl⟩
  · exact .inl ⟨rfl, rfl⟩

/-! ### The registers and the converter -/

/-- The register numbers that have a register (R40 of 10_state.md). -/
theorem regOfNumber_isSome (r : BitVec 5) : (regOfNumber r).isSome = registerNumbers.contains r := by
  revert r
  decide

/-- The checksum as a sum of natural numbers modulo 256 (R160 of 43_checksum.md). -/
theorem checksumHolds_iff (f : RawFrame) :
    checksumHolds f = true ↔ (f.b0.toNat + f.b1.toNat + f.b2.toNat + f.b3.toNat) % 256 = f.b4.toNat := by
  rw [checksumHolds, beq_iff_eq, ← BitVec.toNat_inj]
  simp [checksum, BitVec.toNat_add, Nat.add_mod]

/-- Under `Unknown/AutoDetect`, and only there, there is no conversion (R174 of 44_converter.md). -/
theorem conversion_eq_none {m : SensorModel} {f : RawFrame} : conversion m f = none ↔ m = .auto := by
  cases m <;> simp [conversion]

end Sys2Proof.Machine
end

