-- ==== Sys2Proof/Laws/Exec.lean ====
section
/-! SUPPORT. What a command can do, said once: the inversion of `exec`; and runs of several steps. -/

namespace Sys2Proof.Machine

/-- The commands that answer a value and write nothing: `RD`, `STATUS`, the classification commands. -/
def answersOnly : Instr → Bool
  | .rd _ => true
  | .status _ => true
  | .clsED _ => true
  | .clsSD _ => true
  | .clsES _ => true
  | .clsSS _ => true
  | .clear => false
  | .startE _ => false
  | .decodeS _ => false
  | .check => false
  | .convert => false
  | .setmodel _ => false
  | .pollL _ => false
  | .pollH _ => false

/-- Everything a command can do to a state: `Effect s i t` lists the next states of `i`, each with the guard under
which it comes. -/
inductive Effect (s : State) : Instr → State → Prop where
  | rejected (i : Instr) : Effect s i (reject s)
  | answered (i : Instr) (d : Word) (hi : answersOnly i = true) (h : s.st ≠ .run) :
      Effect s i (respond .done s.err d s)
  | cleared (h : s.st ≠ .run) : Effect s .clear (respond .done .none 0 { s with st := .idle, err := .none })
  | started (now : Word) (h : s.st ≠ .run) :
      Effect s (.startE now)
        (respond .done .none 0
          { s with st := .run, err := .none, idx := -3, nb := 0, b := RawFrame.zero, t0 := now })
  | timedOut (level : Bool) (now : Word) (h : s.st = .run) (ha : s.cfg.ceilE < age now s.t0) :
      Effect s (pollCommand level now) (raiseError .timeout (s.idx.signExtend 32) s)
  | waiting (level : Bool) (now : Word) (h : s.st = .run) (ha : age now s.t0 ≤ s.cfg.ceilE)
      (hl : level = phaseLevel s.idx) :
      Effect s (pollCommand level now) (respond .pending .none (s.idx.signExtend 32) s)
  | edge (level : Bool) (now : Word) (h : s.st = .run) (ha : age now s.t0 ≤ s.cfg.ceilE)
      (hl : level ≠ phaseLevel s.idx) : Effect s (pollCommand level now) (observeEdge now s)
  | decoded (p0 : Word) (h : s.st ≠ .run) :
      Effect s (.decodeS p0) (finishDecode (decodeCapture s p0.toNat) s)
  | accepted (h : s.st = .framed) (hc : checksumHolds s.b = true) :
      Effect s .check (respond .done .none 0 { s with st := .accepted })
  | mismatched (h : s.st = .framed) (hc : checksumHolds s.b = false) :
      Effect s .check (raiseError .checksumMismatch 0 s)
  | converted (r : BitVec 16 × BitVec 16) (h : s.st = .accepted) (hr : conversion s.model s.b = some r) :
      Effect s .convert (writeReading r.1 r.2 s)
  | modelSet (m : BitVec 2) (model : SensorModel) (hm : modelOfCode m = some model) (h : s.st ≠ .run)
      (hc : s.st ≠ .converted) :
      Effect s (.setmodel m) (respond .done s.err (m.setWidth 32) { s with model := model })

/-- Both poll commands are one operation at their level (R125, R126 of 41_framer_edge.md). -/
theorem exec_pollCommand (level : Bool) (now : Word) (s : State) :
    exec (pollCommand level now) s = .next (poll level now s) := by
  cases level <;> rfl

theorem poll_effect (level : Bool) (now : Word) (s : State) : Effect s (pollCommand level now) (poll level now s) := by
  rcases poll_cases level now s with ⟨_, h⟩ | ⟨h1, h2, h⟩ | ⟨h1, h2, h3, h⟩ | ⟨h1, h2, h3, h⟩ <;> rw [h]
  · exact .rejected _
  · exact .timedOut level now h1 h2
  · exact .waiting level now h1 h2 h3
  · exact .edge level now h1 h2 h3

theorem classification_effect {i : Instr} (hi : answersOnly i = true) (v : Variant) (r : Role) (d : Word) (s : State) :
    Effect s i (classification v r d s) := by
  unfold classification
  split
  · exact .rejected i
  · exact .answered i _ hi ‹_›

/-- Every command answers a next state, and it is one of those of `Effect`. -/
theorem exec_effect (i : Instr) (s : State) : ∃ t, exec i s = .next t ∧ Effect s i t := by
  cases i with
  | clear =>
    refine ⟨_, rfl, ?_⟩
    split
    · exact .rejected _
    · exact .cleared ‹_›
  | startE now =>
    refine ⟨_, rfl, ?_⟩
    split
    · exact .rejected _
    · exact .started now ‹_›
  | decodeS p0 =>
    refine ⟨_, rfl, ?_⟩
    split
    · exact .rejected _
    · exact .decoded p0 ‹_›
  | check =>
    refine ⟨_, rfl, ?_⟩
    split
    · exact .rejected _
    · rename_i h
      have h := Decidable.not_not.mp h
      split
      · exact .accepted h ‹_›
      · exact .mismatched h (by simpa using ‹¬ checksumHolds s.b = true›)
  | convert =>
    refine ⟨_, rfl, ?_⟩
    split
    · exact .rejected _
    · rename_i h
      have h := Decidable.not_not.mp h
      split
      · exact .rejected _
      · exact .converted _ h ‹_›
  | setmodel m =>
    refine ⟨_, rfl, ?_⟩
    split
    · exact .rejected _
    · rename_i model hm
      split
      · exact .rejected _
      · rename_i h
        exact .modelSet m model hm (fun e => h (.inl e)) (fun e => h (.inr e))
  | rd r =>
    refine ⟨_, rfl, ?_⟩
    split
    · exact .rejected _
    · rename_i reg hreg
      split
      · rename_i h
        refine .answered _ _ rfl fun e => ?_
        rw [e] at h
        cases reg <;> exact absurd h (by decide)
      · exact .rejected _
  | status k =>
    refine ⟨_, rfl, ?_⟩
    split
    · exact .rejected _
    · exact .answered _ _ rfl ‹_›
  | pollL now => exact ⟨_, rfl, poll_effect false now s⟩
  | pollH now => exact ⟨_, rfl, poll_effect true now s⟩
  | clsED d => exact ⟨_, rfl, classification_effect rfl .edge .data d s⟩
  | clsSD d => exact ⟨_, rfl, classification_effect rfl .sampled .data d s⟩
  | clsES d => exact ⟨_, rfl, classification_effect rfl .edge .start d s⟩
  | clsSS d => exact ⟨_, rfl, classification_effect rfl .sampled .start d s⟩

/-- The inversion of `exec`. -/
theorem effect_of_exec {i : Instr} {s t : State} (h : exec i s = .next t) : Effect s i t := by
  obtain ⟨t', h', he⟩ := exec_effect i s
  rw [h'] at h
  cases h
  exact he

/-! ### Runs -/

/-- A run of any machine goes on from a first step that answers a next state. -/
theorem hostRun_succ (M : Host.Core) {k : Nat} {s t : M.State} (h : M.step s = .next t) :
    M.run (k + 1) s = M.run k t := by
  simp only [Host.Core.run, h]

/-- A run of any machine goes on from the end of a shorter run. -/
theorem hostRun_add (M : Host.Core) {a b : Nat} {s t : M.State} (h : M.run a s = .next t) :
    M.run (a + b) s = M.run b t := by
  induction a generalizing s with
  | zero =>
    rw [Nat.zero_add]
    cases h
    rfl
  | succ a ih =>
    rw [show a + 1 + b = (a + b) + 1 by omega]
    simp only [Host.Core.run] at h ⊢
    cases hs : M.step s with
    | next u =>
      rw [hs] at h
      exact ih h
    | fault _ =>
      rw [hs] at h
      cases h
    | refused _ =>
      rw [hs] at h
      cases h

/-- A run of this machine goes on from its first step. -/
theorem core_run_succ {k : Nat} {s t : State} (h : step s = .next t) :
    Sys2Proof.core.run (k + 1) s = Sys2Proof.core.run k t :=
  hostRun_succ Sys2Proof.core h

/-- A run of this machine goes on from the end of a shorter run. -/
theorem core_run_add {a b : Nat} {s t : State} (h : Sys2Proof.core.run a s = .next t) :
    Sys2Proof.core.run (a + b) s = Sys2Proof.core.run b t :=
  hostRun_add Sys2Proof.core h

end Sys2Proof.Machine
end

