-- ==== Sys2Proof/Laws/Frame.lean ====
section
/-! SUPPORT. The raw frame bit by bit: where the data bits lie while they are shifted in, and what the two framers
leave unchanged. -/

namespace Sys2Proof.Machine

/-- With `nb` bits shifted in, data bit `n` lies at this place of its byte (R65 of 20_memory.md). -/
def bitPlace (nb n : Nat) : Nat := min 8 (nb - 8 * (n / 8)) - 1 - n % 8

/-- The first `nb` data bits of the frame are those of `g`. -/
def Held (f : RawFrame) (nb : Nat) (g : Nat → Bool) : Prop :=
  ∀ n < nb, (frameByte f (n / 8)).getLsbD (bitPlace nb n) = g n

/-- A bit shifted into one byte leaves the other four. -/
theorem frameByte_shiftIntoByte (f : RawFrame) (k j : Nat) (bit : Bool) (hk : k < 5) (hj : j < 5) :
    frameByte (shiftIntoByte f k bit) j = if j = k then shiftIn (frameByte f k) bit else frameByte f j := by
  have hk' : k = 0 ∨ k = 1 ∨ k = 2 ∨ k = 3 ∨ k = 4 := by omega
  have hj' : j = 0 ∨ j = 1 ∨ j = 2 ∨ j = 3 ∨ j = 4 := by omega
  rcases hk' with rfl | rfl | rfl | rfl | rfl <;> rcases hj' with rfl | rfl | rfl | rfl | rfl <;> rfl

/-- The bits of a byte after a bit is shifted in: the new one at place 0, the others one place up. -/
theorem shiftIn_getLsbD (b : Byte) (bit : Bool) (p : Nat) (hp : p < 8) :
    (shiftIn b bit).getLsbD p = if p = 0 then bit else b.getLsbD (p - 1) := by
  have hp' : p = 0 ∨ p = 1 ∨ p = 2 ∨ p = 3 ∨ p = 4 ∨ p = 5 ∨ p = 6 ∨ p = 7 := by omega
  rcases hp' with rfl | rfl | rfl | rfl | rfl | rfl | rfl | rfl <;> revert b <;> cases bit <;> decide

/-- One more bit shifted in is one more bit held (R27 of 10_state.md, R127 of 41_framer_edge.md). -/
theorem held_shiftBit {f : RawFrame} {nb : BitVec 6} {g : Nat → Bool} (hn : nb.toNat < 40)
    (h : Held f nb.toNat g) : Held (shiftBit f nb (g nb.toNat)) (nb.toNat + 1) g := by
  intro n hlt
  unfold shiftBit
  rw [frameByte_shiftIntoByte _ _ _ _ (by omega) (by omega)]
  split
  · rename_i hk
    rw [shiftIn_getLsbD _ _ _ (by unfold bitPlace; omega)]
    split
    · rename_i h0
      unfold bitPlace at h0
      rw [show n = nb.toNat by omega]
    · rename_i h0
      unfold bitPlace at h0
      rw [← hk, ← h n (by omega)]
      congr 1
      unfold bitPlace
      omega
  · rename_i hk
    rw [← h n (by omega)]
    congr 1
    unfold bitPlace
    omega

/-- Forty bits held are the frame's data bits (R91 of 30_encoding.md). -/
theorem frameBit_of_held {f : RawFrame} {g : Nat → Bool} (h : Held f 40 g) : ∀ n < 40, frameBit f n = g n := by
  intro n hn
  rw [← h n hn]
  unfold frameBit
  congr 1
  unfold bitPlace
  omega

/-- A frame is its forty data bits. -/
theorem frame_eq_of_bits {f f' : RawFrame} (h : ∀ n < 40, frameBit f n = frameBit f' n) : f = f' := by
  have hb : ∀ k < 5, frameByte f k = frameByte f' k := by
    intro k hk
    apply BitVec.eq_of_getLsbD_eq
    intro i hi
    have hbit := h (8 * k + (7 - i)) (by omega)
    unfold frameBit at hbit
    rwa [show (8 * k + (7 - i)) / 8 = k by omega, show 7 - (8 * k + (7 - i)) % 8 = i by omega] at hbit
  cases f
  cases f'
  have h0 := hb 0 (by decide)
  have h1 := hb 1 (by decide)
  have h2 := hb 2 (by decide)
  have h3 := hb 3 (by decide)
  have h4 := hb 4 (by decide)
  simp_all [frameByte]

/-! ### What the framers write -/

/-- An observed edge writes `ST`, `B`, `NB`, `IDX`, `T0` and the response, nothing else (R124 of 41_framer_edge.md). -/
theorem observeEdge_rest (now : Word) (s : State) :
    ∃ st b nb rsp, observeEdge now s = { s with st := st, b := b, nb := nb, idx := s.idx + 1, t0 := now, rsp := rsp } := by
  unfold observeEdge
  rw [shiftPhaseBit_rest]
  split
  · exact ⟨_, _, _, _, rfl⟩
  · exact ⟨_, _, _, _, rfl⟩

theorem observeEdge_st {now : Word} {s : State} (h : s.st = .run) :
    (observeEdge now s).st = if s.idx = 79 then .framed else .run := by
  unfold observeEdge
  rw [shiftPhaseBit_rest]
  split <;> simp [h]

theorem observeEdge_rsp (now : Word) (s : State) :
    (observeEdge now s).rsp =
      some (if s.idx = 79 then responseWord .done .none 80
        else responseWord .pending .none ((s.idx + 1).signExtend 32)) := by
  unfold observeEdge
  split <;> rfl

/-- `DECODE.S` writes `ST`, `ERR`, `B`, `NB` and the response, nothing else (R145, R146 of 42_framer_sampled.md). -/
theorem finishDecode_rest (c : Capture) (s : State) :
    ∃ st err b nb rsp, finishDecode c s = { s with st := st, err := err, b := b, nb := nb, rsp := rsp } := by
  rcases finishDecode_cases c s with ⟨_, h⟩ | ⟨_, h⟩ <;> exact ⟨_, _, _, _, _, h⟩

end Sys2Proof.Machine
end

