-- ==== Sys2Proof/Laws/PerInstr.lean ====
section
/-! SUPPORT. One lemma per command: its word selects the row of the opcode map that bears its mnemonic (R83 of
30_encoding.md). -/

namespace Sys2Proof

/-- The bitwise conjunction of two words is that of their parts. -/
theorem append_and_append (o p : BitVec 8) (a b : BitVec 32) : (o ++ a) &&& (p ++ b) = (o &&& p) ++ (a &&& b) := by
  ext i hi
  simp only [BitVec.getElem_and, BitVec.getElem_append]
  split <;> simp

/-- A mask that keeps the whole opcode keeps the opcode. -/
theorem commandWord_and_mask (o : Byte) (a m : Word) :
    commandWord o a &&& commandWord 0xFF m = commandWord o (a &&& m) := by
  have happ : commandWord o a &&& commandWord 0xFF m = commandWord (o &&& 0xFF) (a &&& m) := append_and_append _ _ _ _
  rw [happ]
  congr 1
  clear happ
  revert o
  decide

/-- A word selects a row when its argument has no bit under the row's mask. -/
theorem selects_row {n : String} {o : Byte} {m a : Word}
    (hrow : ∃ row ∈ opcodeRows, row.mnemonic = n ∧ row.mask = commandWord 0xFF m ∧ row.pattern = commandWord o 0)
    (ha : a &&& m = 0) : ∃ row ∈ opcodeRows, row.mnemonic = n ∧ row.selects (commandWord o a) = true := by
  obtain ⟨row, h1, h2, h3, h4⟩ := hrow
  refine ⟨row, h1, h2, ?_⟩
  rw [OpcodeRow.selects, beq_iff_eq, h3, h4, commandWord_and_mask, ha]

namespace Laws.RowOfWord

/-- The word of the command selects the row of its mnemonic. -/
def Statement (i : Instr) : Prop := ∃ row ∈ opcodeRows, row.mnemonic = mnemonic i ∧ row.selects (encode i) = true

theorem noBits (a : Word) : a &&& 0 = 0 := by simp

theorem twoBits (v : BitVec 2) : (v.setWidth 32 : Word) &&& 0xFFFFFFFC = 0 := by
  revert v
  decide

theorem fiveBits (v : BitVec 5) : (v.setWidth 32 : Word) &&& 0xFFFFFFE0 = 0 := by
  revert v
  decide

theorem clear : Statement .clear :=
  selects_row (n := "CLEAR") (o := 0x00) (m := 0xFFFFFFFF) (by decide) rfl

theorem startE (now : Word) : Statement (.startE now) :=
  selects_row (n := "START.E") (o := 0x01) (m := 0) (by decide) (noBits now)

theorem decodeS (p0 : Word) : Statement (.decodeS p0) :=
  selects_row (n := "DECODE.S") (o := 0x02) (m := 0) (by decide) (noBits p0)

theorem check : Statement .check :=
  selects_row (n := "CHECK") (o := 0x03) (m := 0xFFFFFFFF) (by decide) rfl

theorem convert : Statement .convert :=
  selects_row (n := "CONVERT") (o := 0x04) (m := 0xFFFFFFFF) (by decide) rfl

theorem setmodel (m : BitVec 2) : Statement (.setmodel m) :=
  selects_row (n := "SETMODEL") (o := 0x05) (m := 0xFFFFFFFC) (by decide) (twoBits m)

theorem rd (r : BitVec 5) : Statement (.rd r) :=
  selects_row (n := "RD") (o := 0x06) (m := 0xFFFFFFE0) (by decide) (fiveBits r)

theorem status (k : BitVec 2) : Statement (.status k) :=
  selects_row (n := "STATUS") (o := 0x07) (m := 0xFFFFFFFC) (by decide) (twoBits k)

theorem pollL (now : Word) : Statement (.pollL now) :=
  selects_row (n := "POLL.L") (o := 0x10) (m := 0) (by decide) (noBits now)

theorem pollH (now : Word) : Statement (.pollH now) :=
  selects_row (n := "POLL.H") (o := 0x11) (m := 0) (by decide) (noBits now)

theorem clsED (d : Word) : Statement (.clsED d) :=
  selects_row (n := "CLS.ED") (o := 0x20) (m := 0) (by decide) (noBits d)

theorem clsSD (d : Word) : Statement (.clsSD d) :=
  selects_row (n := "CLS.SD") (o := 0x21) (m := 0) (by decide) (noBits d)

theorem clsES (d : Word) : Statement (.clsES d) :=
  selects_row (n := "CLS.ES") (o := 0x22) (m := 0) (by decide) (noBits d)

theorem clsSS (d : Word) : Statement (.clsSS d) :=
  selects_row (n := "CLS.SS") (o := 0x23) (m := 0) (by decide) (noBits d)

end Laws.RowOfWord

end Sys2Proof
end

