-- ==== Sys2Proof/Laws/Session.lean ====
section
/-! SUPPORT. One lemma per operation of the host: the buffers of the bus, and presenting an input to the block. -/

namespace Sys2Proof.Machine

/-- Bit `k` of a packed byte in the order of time. -/
theorem packByte_bit (level : Nat → Bool) {k : Nat} (hk : k < 8) : (packByte level).getLsbD (7 - k) = level k := by
  have h : k = 0 ∨ k = 1 ∨ k = 2 ∨ k = 3 ∨ k = 4 ∨ k = 5 ∨ k = 6 ∨ k = 7 := by omega
  rcases h with rfl | rfl | rfl | rfl | rfl | rfl | rfl | rfl <;>
    simp [packByte, BitVec.ofBoolListBE, BitVec.getElem_cons]

@[simp] theorem packBuffer_length (level : Nat → Bool) (n : Nat) : (packBuffer level n).length = n := by
  simp [packBuffer]

/-- A packed buffer holds its levels in the order of time. -/
theorem packBuffer_bit (level : Nat → Bool) {n a : Nat} (h : a < 8 * n) : bufferBit (packBuffer level n) a = level a := by
  have h8 : a / 8 < n := by omega
  simp only [bufferBit, packBuffer, List.getD_eq_getElem?_getD, List.getElem?_map, List.getElem?_range h8, Option.map_some,
    Option.getD_some]
  rw [packByte_bit _ (by omega), Nat.div_add_mod]

/-- The transmitted pattern: its length, and its level at each sample. -/
theorem requestPattern_spec (p : HostParams) (m : SensorModel) (c : Params) :
    (requestPattern p m c).length = bufferBytes c ∧
      ∀ a < 8 * bufferBytes c,
        bufferBit (requestPattern p m c) a = decide (requestLow p m * c.fS ≤ a * 1000000) :=
  ⟨packBuffer_length _ _, fun _ h => packBuffer_bit _ h⟩

/-- A transfer presented to the block. -/
theorem present_transfer {buffer : List Byte} {s t : State} :
    present (.transfer buffer) s = some t ↔ buffer.length = bufferBytes s.cfg ∧ t = { s with mem := cellsFrom 0 buffer } := by
  unfold present
  rw [step_transfer (rest := s.port) rfl, show takeInput _ = s from rfl]
  by_cases h : buffer.length = bufferBytes s.cfg <;> simp [applyTransfer, h, eq_comm]

/-- A command issued to the block is its `exec`. -/
theorem issue_eq_some {i : Instr} {s t : State} (hd : decode (encode i) = .ok i) :
    issue i s = some t ↔ exec i s = .next t := by
  unfold issue present
  rw [step_command (rest := s.port) (cw := encode i) rfl hd, show takeInput _ = s from rfl]
  cases exec i s <;> simp

end Sys2Proof.Machine
end

