-- ==== Sys2Proof/Tests/Slice0.lean ====
section
/-! SUPPORT. Tests on fixed values (their expected results are the vectors of 95_test_vectors.md and
96_test_vectors_2.md, named beside each), and for every statement with hypotheses a concrete state that meets them. -/

namespace Sys2Proof.Tests

open Sys2Proof Sys2Proof.Machine

/-! ## Helpers -/

/-- The next state of an outcome, if it is one. -/
def nextOf (x : Host.Outcome State Fault Refusal) : Option State :=
  match x with
  | .next s => some s
  | .fault _ => none
  | .refused _ => none

/-- A field of the next state of a command. -/
def after {α : Type} (i : Instr) (s : State) (f : State → α) : Option α := (nextOf (exec i s)).map f

/-- The reset state in another stage. -/
def inStage (st : Stage) : State := { State.reset with st := st }

/-- A state in `RUN` at a phase. -/
def inPhase (idx : BitVec 8) (t0 : Word) (nb : BitVec 6) (b : RawFrame) : State :=
  { State.reset with st := .run, idx := idx, t0 := t0, nb := nb, b := b }

/-- A held frame. -/
def holding (st : Stage) (m : SensorModel) (b : RawFrame) : State := { State.reset with st := st, model := m, nb := 40, b := b }

/-- A converted Reading. -/
def reading (hum temp : BitVec 16) : State := { State.reset with st := .converted, model := .dht22, hum10 := hum, temp10 := temp }

/-- One sample per microsecond; a run of one sample is a 0, of two samples a 1. -/
def tinyConfig : Params := { Config.refcfg with thrS := 1, ceilS := 2, minS := 1, fS := 1000000, nS := 96 }

/-- A reset instance with a sample memory. -/
def capture (c : Params) (buffer : List Byte) : State := { State.resetWith c with mem := cellsFrom 0 buffer }

/-- The frame of vector K1. -/
def frameK1 : RawFrame := ⟨0x32, 0x00, 0x18, 0x00, 0x4A⟩

/-- The capture of R148 for the frame of K1, every skipped run one sample long, packed by R63 by hand. -/
def bufferK1 : List Byte := [0x55, 0x6D, 0x5A, 0xAA, 0xAA, 0xAB, 0x6A, 0xAA, 0xAA, 0xAD, 0x5A, 0xD7]

/-- Samples that alternate, low first: every run is one sample long. -/
def alternating (nS : Nat) : State := capture { tinyConfig with nS := nS } (List.replicate 11 0x55)

/-! ## Well-formedness: an ill-formed term for each check -/

theorem smoke_setmodel_three : Instr.WellFormed (.setmodel 3) = false := by decide
theorem smoke_rd_six : Instr.WellFormed (.rd 6) = false := by decide
theorem smoke_rd_thirteen : Instr.WellFormed (.rd 13) = false := by decide
theorem smoke_rd_twenty : Instr.WellFormed (.rd 20) = false := by decide

/-! ## Decoding, from the words of the vectors -/

/-- X11. -/
theorem test_decode_clear : decode 0x0000000000 = .ok .clear := by rfl
/-- The example of R96. -/
theorem test_decode_startE : decode 0x01000003E8 = .ok (.startE 1000) := by rfl
/-- R2. -/
theorem test_decode_decodeS : decode 0x02000002BC = .ok (.decodeS 700) := by rfl
/-- P5, 86 and 87. -/
theorem test_decode_check : decode 0x0300000000 = .ok .check := by rfl
theorem test_decode_convert : decode 0x0400000000 = .ok .convert := by rfl
/-- X7. -/
theorem test_decode_setmodel : decode 0x0500000001 = .ok (.setmodel 1) := by rfl
/-- V15. -/
theorem test_decode_rd : decode 0x0600000011 = .ok (.rd 17) := by rfl
/-- X10. -/
theorem test_decode_status : decode 0x0700000003 = .ok (.status 3) := by rfl
/-- E13 and E6. -/
theorem test_decode_pollL : decode 0x1000000010 = .ok (.pollL 16) := by rfl
theorem test_decode_pollH : decode 0x1100000802 = .ok (.pollH 2050) := by rfl
/-- A5, A9, A14, A16. -/
theorem test_decode_clsED : decode 0x2000000046 = .ok (.clsED 70) := by rfl
theorem test_decode_clsSD : decode 0x210000001C = .ok (.clsSD 28) := by rfl
theorem test_decode_clsES : decode 0x2200000050 = .ok (.clsES 80) := by rfl
theorem test_decode_clsSS : decode 0x230000006E = .ok (.clsSS 110) := by rfl
/-- X4, X5, X6 and an argument that must be zero (R84 b). -/
theorem test_decode_rd_six : decode 0x0600000006 = .error .register := by rfl
theorem test_decode_rd_high_bit : decode 0x0600000020 = .error .mustBeZero := by rfl
theorem test_decode_setmodel_three : decode 0x0500000003 = .error .model := by rfl
theorem test_decode_check_operand : decode 0x0300000001 = .error .argumentNotZero := by rfl
/-- The opcodes beside the fourteen (R84 a). -/
theorem test_decode_opcodes :
    [0x08, 0x0F, 0x12, 0x1F, 0x24, 0xFF].map (fun o => decode (commandWord o 0)) =
      List.replicate 6 (.error .opcode) := by rfl
/-- The table's numbering: the word of 40 bits is the command word. -/
theorem test_decode_table_word : decodeTableWord 40 0x110000044C = some (.pollH 1100) := by rfl
/-- P5, 1 to 4: names, a hexadecimal number, a comment and two `PHASE` lines (R96, R97). -/
theorem test_assemble :
    assemble ["SETMODEL DHT22".toList, "START.E 0xFFFFFC18 ; P5".toList, "PHASE 15".toList, "PHASE 78".toList] =
      some [0x0500000002, 0x01FFFFFC18, 0x10FFFFFC27, 0x11FFFFFC75] := by decide +kernel
/-- P5, 3 to 5: the polls that three `PHASE` lines stand for (R97 a). -/
theorem test_phases :
    (expandPhases 0xFFFFFC18 (-3) [15, 78, 82]).map encode = [0x10FFFFFC27, 0x11FFFFFC75, 0x10FFFFFCC7] := by decide

/-! ## One step of each command -/

/-- X11. -/
theorem test_clear :
    after .clear { inStage .failed with err := .checksumMismatch } (fun t => (t.st, t.err, t.rsp)) =
      some (.idle, .none, some 0x000000000) := by decide
/-- E19. -/
theorem test_clear_in_run : after .clear (inStage .run) (fun t => (t.st, t.rsp)) = some (.run, some 0x800000000) := by
  decide
/-- E20. -/
theorem test_startE :
    after (.startE 0xFFFFFFFF) (inStage .converted) (fun t => (t.st, t.idx, t.nb, t.b, t.t0)) =
      some (.run, 0xFD, 0, ⟨0, 0, 0, 0, 0⟩, 4294967295) := by decide
/-- R148, for the frame of K1. -/
theorem test_decodeS :
    after (.decodeS 0) (capture tinyConfig bufferK1) (fun t => (t.st, t.b, t.nb, t.rsp)) =
      some (.framed, frameK1, 40, some 0x000000028) := by decide
/-- R4: the start index is the end of the memory. -/
theorem test_decodeS_outside :
    after (.decodeS 96) (capture tinyConfig bufferK1) (fun t => (t.st, t.err, t.rsp)) =
      some (.failed, .timeout, some 0x100000000) := by decide
/-- K4: the sum wraps. -/
theorem test_check :
    after .check (holding .framed .auto ⟨0xFF, 0xFF, 0xFF, 0xFF, 0xFC⟩) (fun t => (t.st, t.rsp)) =
      some (.accepted, some 0x000000000) := by decide
/-- K3. -/
theorem test_check_mismatch :
    after .check (holding .framed .auto ⟨0x01, 0x90, 0x00, 0xC8, 0x5A⟩) (fun t => (t.st, t.err, t.rsp)) =
      some (.failed, .checksumMismatch, some 0x200000000) := by decide
/-- V2. -/
theorem test_convert_dht22 :
    after .convert (holding .accepted .dht22 ⟨0x02, 0x8C, 0x80, 0x32, 0x40⟩) (fun t => (t.hum10, t.temp10, t.rsp)) =
      some (652, 0xFFCE, some 0x0028CFFCE) := by decide
/-- V4. -/
theorem test_convert_dht11 :
    after .convert (holding .accepted .dht11 ⟨0x32, 0x07, 0x18, 0x09, 0x5A⟩) (fun t => (t.hum10, t.temp10, t.rsp)) =
      some (500, 240, some 0x001F400F0) := by decide
/-- X8. -/
theorem test_setmodel :
    after (.setmodel 2) { inStage .failed with err := .timeout } (fun t => (t.model, t.err, t.rsp)) =
      some (.dht22, .timeout, some 0x100000002) := by decide
/-- V16. -/
theorem test_setmodel_converted :
    after (.setmodel 1) (reading 0 0) (fun t => (t.model, t.rsp)) = some (.dht22, some 0x800000000) := by decide
/-- V15. -/
theorem test_rd_temp10 : after (.rd 17) (reading 652 0xFFCE) (fun t => t.rsp) = some (some 0x0FFFFFFCE) := by decide
/-- X3. -/
theorem test_rd_b0_idle : after (.rd 8) State.reset (fun t => t.rsp) = some (some 0x800000000) := by decide
/-- X9. -/
theorem test_status :
    after (.status 0) { inStage .failed with err := .timeout } (fun t => t.rsp) = some (some 0x100000000) := by decide
/-- E9: the eighth bit completes B[0]. -/
theorem test_pollL :
    after (.pollL 3070) (inPhase 15 3000 7 ⟨0x55, 0, 0, 0, 0⟩) (fun t => (t.b, t.nb, t.idx, t.t0, t.rsp)) =
      some (⟨0xAB, 0, 0, 0, 0⟩, 8, 16, 3070, some 0x400000010) := by decide
/-- E11: the last edge. -/
theorem test_pollL_last :
    after (.pollL 9070) (inPhase 79 9000 39 ⟨0x01, 0x90, 0x00, 0xC8, 0x2C⟩) (fun t => (t.st, t.b, t.idx, t.rsp)) =
      some (.framed, ⟨0x01, 0x90, 0x00, 0xC8, 0x59⟩, 80, some 0x000000050) := by decide
/-- E14: an expired age across a wrap of the Clock. -/
theorem test_pollH_timeout :
    after (.pollH 85) (inPhase 5 4294967280 2 ⟨2, 0, 0, 0, 0⟩) (fun t => (t.st, t.err, t.idx, t.rsp)) =
      some (.failed, .timeout, 5, some 0x100000005) := by decide
/-- E1: the line still holds the level of the phase. -/
theorem test_pollH_waiting :
    after (.pollH 1010) (inPhase (-3) 1000 0 ⟨0, 0, 0, 0, 0⟩) (fun t => (t.idx, t.t0, t.rsp)) =
      some (0xFD, 1000, some 0x4FFFFFFFD) := by decide
/-- A3, A7, A10, A12, A15, A16: the bounds of the bands. -/
theorem test_clsED :
    [30, 101].map (fun d => after (.clsED d) State.reset (fun t => t.rsp)) =
      [some (some 0x000000000), some (some 0x000000002)] := by decide
theorem test_clsSD :
    [29, 121].map (fun d => after (.clsSD d) State.reset (fun t => t.rsp)) =
      [some (some 0x000000001), some (some 0x000000002)] := by decide
theorem test_clsES : after (.clsES 101) State.reset (fun t => t.rsp) = some (some 0x000000002) := by decide
theorem test_clsSS : after (.clsSS 110) State.reset (fun t => t.rsp) = some (some 0x000000001) := by decide

/-- V1, V2, V7, V8, R171: the renderings of tenths. -/
theorem test_humf :
    [400, 652, 65535, 1, 0].map (fun h => humf h) = [0x42200000, 0x42826666, 0x45CCCC00, 0x3DCCCCCD, 0x00000000] := by
  decide
theorem test_tempf :
    [200, -50, 32767, -32767, -1].map (fun t => tempf false (BitVec.ofInt 16 t)) =
      [0x41A00000, 0xC0A00000, 0x454CCB33, 0xC54CCB33, 0xBDCCCCCD] := by decide

/-- R63: bit 7 of a byte is the earliest sample. -/
theorem test_sample_order :
    (List.range 16).map (memRead (capture tinyConfig [0x80, 0x01])) =
      [true, false, false, false, false, false, false, false, false, false, false, false, false, false, false, true] := by
  decide

/-- `step` runs the command that `State.withFetchWord` places, as the first one after reset. -/
theorem test_step_fetched :
    (nextOf (step (State.reset.withFetchWord 40 0x0500000002))).map (fun t => (t.model, t.port, t.rsp)) =
      some (.dht22, [], some 0x000000002) := by decide
/-- X4. -/
theorem test_step_reserved :
    (nextOf (step (State.reset.withFetchWord 40 0x0600000006))).map (fun t => (t.st, t.rsp)) =
      some (.idle, some 0x800000000) := by decide

/-! ## A concrete state for the hypotheses of each statement -/

theorem witness_ResetMeetsTheInvariant : Config.refcfg.Ok := by decide

theorem witness_StepRunsTheDecodedCommand :
    (State.reset.withFetchWord 40 0x01000003E8).port = .command 0x01000003E8 :: [] ∧
      decode 0x01000003E8 = .ok (.startE 1000) := ⟨by decide, by rfl⟩

theorem witness_StepRejectsAReservedWord :
    (State.reset.withFetchWord 40 0x0800000000).port = .command 0x0800000000 :: [] ∧
      decode 0x0800000000 = .error .opcode := ⟨by decide, by rfl⟩

theorem witness_ResetInputResetsFromEveryStage : ({ inStage .run with port := [.reset] } : State).port = .reset :: [] := rfl

theorem witness_BlockWaitsWithNoInput : State.reset.port = [] := rfl

theorem witness_DecodeReadsBackEveryEncoding :
    Instr.WellFormed (.setmodel 2) = true ∧ Instr.WellFormed (.rd 19) = true ∧
      Instr.WellFormed (.decodeS 0xFFFFFFFF) = true := by decide

theorem witness_EveryDecodedWordIsTheEncoding : decode 0x0600000013 = .ok (.rd 19) := by rfl

/-- One word for each clause (a) to (e) of R84, at the ends of its ranges. -/
theorem witness_ReservedEncodingsAreRejected :
    (∀ o ∈ [0x08, 0x0F, 0x12, 0x1F, 0x24, 0xFF], (opcodeOf (commandWord o 0)).toNat = o.toNat) ∧
      (∀ o ∈ [0x00, 0x03, 0x04], (argumentOf (commandWord o 1)).toNat ≠ 0) ∧
      (∀ o ∈ [0x05, 0x07], 4 ≤ (argumentOf (commandWord o 4)).toNat) ∧
      32 ≤ (argumentOf (commandWord 0x06 32)).toNat ∧ (argumentOf (commandWord 0x05 3)).toNat = 3 ∧
      [6, 7, 13, 14, 15, 20, 31].map (fun a => (argumentOf (commandWord 0x06 a)).toNat) =
        [6, 7, 13, 14, 15, 20, 31] ∧
      (State.reset.withFetchWord 40 0x0600000014).port = .command 0x0600000014 :: [] :=
  ⟨by decide, by decide, by decide, by decide, by decide, by rfl, by rfl⟩

/-- A word that selects two rows (the same one), a word that decodes, a word that selects none. -/
theorem witness_OpcodeRowsAreDisjointAndComplete :
    (opcodeRows.filter (fun row => row.selects 0x0500000002)).map OpcodeRow.mnemonic = ["SETMODEL"] ∧
      (∀ row ∈ opcodeRows, row.selects 0x0800000000 = false) ∧ decode 0x0500000002 = .ok (.setmodel 2) :=
  ⟨by decide, by decide, by rfl⟩

/-- Both responses are one word. -/
theorem witness_ResponseWordHoldsItsFields :
    responseWord .pending .none 0xFFFFFFFD = responseWord .pending .none 0xFFFFFFFD := rfl

/-- The stages that the statements about the control commands, `START.E`, `CHECK` and the classifier name. -/
theorem witness_ClearReturnsToIdle : (inStage .failed).st ≠ .run ∧ (inStage .run).st = .run := by decide

theorem witness_SetmodelWritesTheModel :
    ((inStage .accepted).st ≠ .run ∧ (inStage .accepted).st ≠ .converted) ∧ (inStage .run).st = .run ∧
      (inStage .converted).st = .converted ∧ (3 : BitVec 2) = 3 := by decide

theorem witness_StatusNamesItsOperand : (inStage .converted).st ≠ .run ∧ (inStage .run).st = .run := by decide

theorem witness_RdReadsTheStatusRegisters : (inStage .failed).st ≠ .run := by decide

theorem witness_RdReadsTheFrame :
    (inStage .framed).st = .framed ∧ (inStage .accepted).st = .accepted ∧ (inStage .converted).st = .converted ∧ 4 < 5 := by
  decide

theorem witness_RdReadsTheTenths : (reading 652 0xFFCE).st = .converted := rfl

theorem witness_RdHumfIsTheNearestFloat :
    ((reading 0 0).st = .converted ∧ (reading 0 0).hum10 = 0) ∧
      ((reading 0xFFFF 0).st = .converted ∧ (reading 0xFFFF 0).hum10 ≠ 0) := by decide

theorem witness_RdTempfIsTheNearestFloat :
    ((reading 0 0).st = .converted ∧ (reading 0 0).temp10 = 0) ∧
      ((reading 0 1).st = .converted ∧ 0 < (reading 0 1).temp10.toInt) ∧
      ((reading 0 0x8001).st = .converted ∧ (reading 0 0x8001).temp10.toInt < 0) := by decide

theorem witness_ClassificationAnswersItsBand : State.reset.st ≠ .run := by decide

theorem witness_ClassifierCutsAtItsBounds : tinyConfig.Ok := by decide

theorem witness_ClassifierIsMonotone :
    Config.refcfg.Ok ∧ 101 ≤ 102 ∧ classify Config.refcfg .edge .data 101 = .timeout := by decide

theorem witness_StartBeginsADecode : (inStage .failed).st ≠ .run ∧ (inStage .run).st = .run := by decide

theorem witness_AgeToleratesAClockWrap : (2 ^ 32 - 1 : Nat) < 2 ^ 32 := by decide

/-- E14: the first age above the ceiling. -/
theorem witness_PollPastTheCeilingTimesOut :
    (inPhase 5 4294967280 2 ⟨2, 0, 0, 0, 0⟩).st = .run ∧
      ((inPhase 5 4294967280 2 ⟨2, 0, 0, 0, 0⟩).cfg.ceilE : Int) <
        (((85 : Word).toNat : Int) - (inPhase 5 4294967280 2 ⟨2, 0, 0, 0, 0⟩).t0.toNat) % 2 ^ 32 := by decide

/-- A high level in an odd phase at the ceiling, a low level in an even one. -/
theorem witness_PollWithoutAnEdgeWritesNothing :
    ((inPhase 79 9000 39 frameK1).st = .run ∧
      (((9100 : Word).toNat : Int) - (inPhase 79 9000 39 frameK1).t0.toNat) % 2 ^ 32 ≤
        (inPhase 79 9000 39 frameK1).cfg.ceilE ∧
      (inPhase 79 9000 39 frameK1).idx.toInt % 2 = (if true then 1 else 0)) ∧
      ((inPhase (-2) 9000 0 frameK1).st = .run ∧
        (((9000 : Word).toNat : Int) - (inPhase (-2) 9000 0 frameK1).t0.toNat) % 2 ^ 32 ≤
          (inPhase (-2) 9000 0 frameK1).cfg.ceilE ∧
        (inPhase (-2) 9000 0 frameK1).idx.toInt % 2 = (if false then 1 else 0)) := by decide

/-- E16, a framing phase that is odd, and E6, an even phase. -/
theorem witness_PollTakesAnEdgeThatIsNoDatum :
    ((inPhase (-1) 1180 0 ⟨0, 0, 0, 0, 0⟩).st = .run ∧
      (((1181 : Word).toNat : Int) - (inPhase (-1) 1180 0 ⟨0, 0, 0, 0, 0⟩).t0.toNat) % 2 ^ 32 ≤
        (inPhase (-1) 1180 0 ⟨0, 0, 0, 0, 0⟩).cfg.ceilE ∧
      (inPhase (-1) 1180 0 ⟨0, 0, 0, 0, 0⟩).idx.toInt % 2 = (if false then 0 else 1) ∧
      (inPhase (-1) 1180 0 ⟨0, 0, 0, 0, 0⟩).idx.toInt < 1) ∧
      ((inPhase 78 2000 39 frameK1).st = .run ∧
        (((2050 : Word).toNat : Int) - (inPhase 78 2000 39 frameK1).t0.toNat) % 2 ^ 32 ≤
          (inPhase 78 2000 39 frameK1).cfg.ceilE ∧
        (inPhase 78 2000 39 frameK1).idx.toInt % 2 = (if true then 0 else 1) ∧
        (inPhase 78 2000 39 frameK1).idx.toInt % 2 = 0) := by decide

/-- The first data phase and the last. -/
theorem witness_PollShiftsADataBitIn :
    ((inPhase 1 2050 0 frameK1).st = .run ∧
      (((2080 : Word).toNat : Int) - (inPhase 1 2050 0 frameK1).t0.toNat) % 2 ^ 32 ≤
        (inPhase 1 2050 0 frameK1).cfg.ceilE ∧
      1 ≤ (inPhase 1 2050 0 frameK1).idx.toInt ∧ (inPhase 1 2050 0 frameK1).idx.toInt ≤ 79 ∧
      (inPhase 1 2050 0 frameK1).idx.toInt % 2 = 1 ∧ (inPhase 1 2050 0 frameK1).nb.toNat < 40) ∧
    ((inPhase 79 2050 39 frameK1).st = .run ∧
      (((2150 : Word).toNat : Int) - (inPhase 79 2050 39 frameK1).t0.toNat) % 2 ^ 32 ≤
        (inPhase 79 2050 39 frameK1).cfg.ceilE ∧
      1 ≤ (inPhase 79 2050 39 frameK1).idx.toInt ∧ (inPhase 79 2050 39 frameK1).idx.toInt ≤ 79 ∧
      (inPhase 79 2050 39 frameK1).idx.toInt % 2 = 1 ∧ (inPhase 79 2050 39 frameK1).nb.toNat < 40) := by decide

/-- A command that answers a next state: what the statements about every command suppose. -/
theorem witness_IdxNeverSkips :
    exec (.status 1) State.reset = .next { State.reset with rsp := some (responseWord .done .none 1) } := rfl

theorem witness_StageMovesByTheTable :
    exec .clear State.reset = .next { State.reset with rsp := some (responseWord .done .none 0) } := rfl

theorem witness_NoCommandWritesMemoryOrConfiguration :
    exec (.setmodel 1) State.reset =
      .next { State.reset with model := .dht11, rsp := some (responseWord .done .none 1) } := rfl

/-- The reset state with `START.E` and a list of phases on its port. -/
def withPhases (ds : List Word) : State :=
  { State.reset with port := (Instr.startE 1000 :: expandPhases 1000 (-3) ds).map (fun i => Input.command (encode i)) }

theorem withPhases_port (ds : List Word) :
    (withPhases ds).port = (Instr.startE 1000 :: expandPhases 1000 (-3) ds).map (fun i => Input.command (encode i)) := rfl

/-- Eighty-three phases of 100 microseconds, the ceiling. -/
theorem witness_PhaseDurationsDecideTheFrame :
    (withPhases (List.replicate 83 100)).st ≠ .run ∧ (List.replicate 83 (100 : Word)).length = 83 ∧
      (withPhases (List.replicate 83 100)).port =
        (Instr.startE 1000 :: expandPhases 1000 (-3) (List.replicate 83 100)).map
          (fun i => Input.command (encode i)) ∧
      ∀ d ∈ List.replicate 83 (100 : Word), d.toNat ≤ (withPhases (List.replicate 83 100)).cfg.ceilE := by
  refine ⟨nofun, List.length_replicate, withPhases_port _, fun d hd => ?_⟩
  rw [List.eq_of_mem_replicate hd]
  exact Nat.le_refl 100

/-- The sensor is absent (the first phase is too long), and the last phase is too long. -/
theorem witness_FirstLongPhaseTimesOut :
    ∀ n < 83,
      (withPhases (List.replicate n 100 ++ 101 :: [])).st ≠ .run ∧ (List.replicate n (100 : Word)).length < 83 ∧
        (withPhases (List.replicate n 100 ++ 101 :: [])).port =
          (Instr.startE 1000 :: expandPhases 1000 (-3) (List.replicate n 100 ++ 101 :: [])).map
            (fun i => Input.command (encode i)) ++ [] ∧
        (∀ d ∈ List.replicate n (100 : Word), d.toNat ≤ (withPhases (List.replicate n 100 ++ 101 :: [])).cfg.ceilE) ∧
        (withPhases (List.replicate n 100 ++ 101 :: [])).cfg.ceilE < (101 : Word).toNat := by
  intro n hn
  refine ⟨nofun, by rwa [List.length_replicate], by rw [List.append_nil, withPhases_port], fun d hd => ?_, Nat.lt_succ_self 100⟩
  rw [List.eq_of_mem_replicate hd]
  exact Nat.le_refl 100

/-! ### The sampled framer: with alternating samples, run `j` is the sample `j` -/

/-- The decidable form of `RunEnds` for a run of one sample. -/
theorem runEnds_one {s : State} {p : Nat} (h : p + 1 < s.cfg.nS ∧ memRead s (p + 1) ≠ memRead s p) :
    RunEnds s p (p + 1) :=
  ⟨Nat.lt_succ_self p, h.1, fun a ha hb => by rw [show a = p by omega], h.2⟩

/-- The decidable form of `NoEnd` for the last sample of the memory. -/
theorem noEnd_last {s : State} {p : Nat} (h : s.cfg.nS = p + 1) : NoEnd s p :=
  fun a ha hb => by rw [show a = p by omega]

/-- A run that ends, and one that does not. -/
theorem witness_NextRunFindsTheEndOfTheRun :
    (0 < (alternating 85).cfg.nS ∧ RunEnds (alternating 85) 0 1) ∧
      (84 < (alternating 85).cfg.nS ∧ NoEnd (alternating 85) 84) :=
  ⟨⟨by decide, runEnds_one (by decide)⟩, by decide, noEnd_last rfl⟩

theorem alternating_samples : ∀ j < 87, memRead (alternating 88) (j + 1) ≠ memRead (alternating 88) j := by decide

/-- The first `k` runs of alternating samples, in any memory that holds one sample more. -/
theorem alternating_runs {nS k : Nat} (h : k < nS) (hk : k ≤ 87) : RunsFrom (alternating nS) (fun j => j) k :=
  ⟨show 0 < nS by omega, fun j hj =>
    runEnds_one ⟨show j + 1 < nS by omega, alternating_samples j (Nat.lt_of_lt_of_le hj hk)⟩⟩

/-- The memory of 88 alternating samples is the complete capture of the frame of five zero bytes. -/
theorem witness_DecodeOfACompleteCaptureFrames :
    (alternating 88).st ≠ .run ∧ (fun j : Nat => j) 0 = (0 : Word).toNat ∧
      RunsFrom (alternating 88) (fun j => j) 84 ∧
      (∀ n < 40, (alternating 88).cfg.minS ≤ dataRunDuration (alternating 88).cfg (fun j => j) n ∧
        dataRunDuration (alternating 88).cfg (fun j => j) n ≤ (alternating 88).cfg.ceilS) ∧
      (∀ n < 40, frameBit ⟨0, 0, 0, 0, 0⟩ n =
        decide ((alternating 88).cfg.thrS < dataRunDuration (alternating 88).cfg (fun j => j) n)) :=
  ⟨nofun, rfl, alternating_runs (by decide) (by decide), by decide, by decide⟩

/-- A start index that is the end of the memory; a first framing run, and a last one, without an end. -/
theorem witness_DecodeWithoutFramingRunsTimesOut :
    ((alternating 88).st ≠ .run ∧ (alternating 88).cfg.nS ≤ (88 : Word).toNat) ∧
      ((alternating 1).st ≠ .run ∧ ∃ e n, n < 4 ∧ e 0 = (0 : Word).toNat ∧ RunsFrom (alternating 1) e n ∧
        NoEnd (alternating 1) (e n)) ∧
      ((alternating 4).st ≠ .run ∧ ∃ e n, n < 4 ∧ e 0 = (0 : Word).toNat ∧ RunsFrom (alternating 4) e n ∧
        NoEnd (alternating 4) (e n)) :=
  ⟨⟨nofun, by decide⟩,
    ⟨nofun, fun j => j, 0, by decide, rfl, alternating_runs (by decide) (by decide), noEnd_last rfl⟩,
    ⟨nofun, fun j => j, 3, by decide, rfl, alternating_runs (by decide) (by decide), noEnd_last rfl⟩⟩

/-- The bits before the bad one are plausible: every run lasts one microsecond. -/
theorem alternating_plausible (nS : Nat) : ∀ m < 40,
    (alternating nS).cfg.minS ≤ dataRunDuration (alternating nS).cfg (fun j => j) m ∧
      dataRunDuration (alternating nS).cfg (fun j => j) m ≤ (alternating nS).cfg.ceilS :=
  fun m hm => (by decide : ∀ m < 40, tinyConfig.minS ≤ dataRunDuration tinyConfig (fun j => j) m ∧
    dataRunDuration tinyConfig (fun j => j) m ≤ tinyConfig.ceilS) m hm

/-- The hypotheses that the three cases of a bad data bit share. -/
def beforeBit (s : State) (n : Nat) : Prop :=
  s.st ≠ .run ∧ (fun j : Nat => j) 0 = (0 : Word).toNat ∧ RunsFrom s (fun j => j) (4 + 2 * n) ∧
    ∀ m < n, s.cfg.minS ≤ dataRunDuration s.cfg (fun j => j) m ∧ dataRunDuration s.cfg (fun j => j) m ≤ s.cfg.ceilS

/-- A bit start without an end, and a measured run without an end, at every bit. -/
theorem witness_DecodeOfABadDataRunTimesOut :
    ∀ n < 40,
      (beforeBit (alternating (5 + 2 * n)) n ∧ NoEnd (alternating (5 + 2 * n)) (4 + 2 * n)) ∧
      (beforeBit (alternating (6 + 2 * n)) n ∧ RunsFrom (alternating (6 + 2 * n)) (fun j => j) (5 + 2 * n) ∧
        NoEnd (alternating (6 + 2 * n)) (5 + 2 * n)) :=
  fun n hn =>
    ⟨⟨⟨nofun, rfl, alternating_runs (by omega) (by omega), fun m hm => alternating_plausible _ m (by omega)⟩,
        noEnd_last (show 5 + 2 * n = 4 + 2 * n + 1 by omega)⟩,
      ⟨nofun, rfl, alternating_runs (by omega) (by omega), fun m hm => alternating_plausible _ m (by omega)⟩,
      alternating_runs (by omega) (by omega), noEnd_last (show 6 + 2 * n = 5 + 2 * n + 1 by omega)⟩

/-- Ten microseconds a sample: a measured run of one sample lasts ten, below one minimum and above one ceiling. -/
def slowSamples (minS thrS ceilS : Nat) : State :=
  { alternating 88 with
    cfg := { (alternating 88).cfg with fS := 100000, minS := minS, thrS := thrS, ceilS := ceilS } }

theorem slowSamples_runs (minS thrS ceilS : Nat) {k : Nat} (hk : k ≤ 87) :
    RunsFrom (slowSamples minS thrS ceilS) (fun j => j) k :=
  ⟨show 0 < 88 by omega, fun j hj => runEnds_one ⟨show j + 1 < 88 by omega, alternating_samples j (by omega)⟩⟩

theorem witness_DecodeOfABadDataRunTimesOut_duration :
    (beforeBit (slowSamples 11 11 20) 0 ∧ RunsFrom (slowSamples 11 11 20) (fun j => j) 6 ∧
      dataRunDuration (slowSamples 11 11 20).cfg (fun j => j) 0 < (slowSamples 11 11 20).cfg.minS) ∧
    (beforeBit (slowSamples 1 5 9) 0 ∧ RunsFrom (slowSamples 1 5 9) (fun j => j) 6 ∧
      (slowSamples 1 5 9).cfg.ceilS < dataRunDuration (slowSamples 1 5 9).cfg (fun j => j) 0) :=
  ⟨⟨⟨nofun, rfl, slowSamples_runs _ _ _ (by decide), fun m hm => absurd hm (Nat.not_lt_zero m)⟩,
      slowSamples_runs _ _ _ (by decide), by decide⟩,
    ⟨nofun, rfl, slowSamples_runs _ _ _ (by decide), fun m hm => absurd hm (Nat.not_lt_zero m)⟩,
    slowSamples_runs _ _ _ (by decide), by decide⟩

/-- The run lengths of the capture of K1 above. -/
def lengthsK1 : RunLengths :=
  { requestLow := 1, requestHigh := 1, initLow := 1, initHigh := 1, bitStart := List.replicate 40 1, zeroRun := 1,
    oneRun := 2, closing := 1 }

/-- Every run length at 1, the durations at `MIN_S` and at `CEIL_S`. -/
theorem witness_SampledRoundTrip :
    (capture tinyConfig bufferK1).st ≠ .run ∧ tinyConfig.Ok ∧ lengthsK1.bitStart.length = 40 ∧
      (∀ x ∈ lengthsK1.bitStart, 0 < x) ∧ tinyConfig.minS ≤ lengthsK1.zeroRun * 1000000 / tinyConfig.fS ∧
      lengthsK1.zeroRun * 1000000 / tinyConfig.fS ≤ tinyConfig.thrS ∧
      tinyConfig.thrS < lengthsK1.oneRun * 1000000 / tinyConfig.fS ∧
      lengthsK1.oneRun * 1000000 / tinyConfig.fS ≤ tinyConfig.ceilS ∧
      (encodeFrame frameK1 lengthsK1).length ≤ tinyConfig.nS ∧
      (∀ a < (encodeFrame frameK1 lengthsK1).length,
        memRead (capture tinyConfig bufferK1) a = (encodeFrame frameK1 lengthsK1).getD a false) :=
  ⟨nofun, by decide, by decide, by decide, by decide, by decide, by decide, by decide, by decide, by decide⟩

theorem witness_TransferFillsTheSampleMemory :
    ({ capture tinyConfig [] with port := [.transfer bufferK1] } : State).port = .transfer bufferK1 :: [] ∧
      bufferK1.length = (tinyConfig.nS + 7) / 8 := ⟨rfl, by decide⟩

theorem witness_TransferOfAnotherLengthFaults :
    ({ capture tinyConfig [] with port := [.transfer [0x55]] } : State).port = .transfer [0x55] :: [] ∧
      [(0x55 : Byte)].length ≠ (tinyConfig.nS + 7) / 8 := ⟨rfl, by decide⟩

/-! ### The checksum and the converter -/

/-- K4, K5 and a stage that holds no unverified frame. -/
theorem witness_CheckComparesTheSum :
    ((inStage .framed).st = .framed ∧ (0xFF + 0xFF + 0xFF + 0xFF) % 256 = (0xFC : Byte).toNat) ∧
      (0xFF + 0xFF + 0xFF + 0xFF) % 256 ≠ (0xFF : Byte).toNat ∧ (inStage .accepted).st ≠ .framed := by decide

theorem witness_OneChecksumPerFrame : (holding .framed .auto frameK1).st = .framed := rfl

theorem witness_ConvertDht11TakesTheHighBytes :
    (holding .accepted .dht11 frameK1).st = .accepted ∧ (holding .accepted .dht11 frameK1).model = .dht11 := ⟨rfl, rfl⟩

/-- V7 and V6: the largest positive halfword and the negative zero. -/
theorem witness_ConvertDht22IsSignMagnitude :
    (holding .accepted .dht22 ⟨0xFF, 0xFF, 0x7F, 0xFF, 0x7C⟩).st = .accepted ∧
      (holding .accepted .dht22 ⟨0xFF, 0xFF, 0x7F, 0xFF, 0x7C⟩).model = .dht22 ∧
      0x7F * 256 + 0xFF < 32768 ∧ ¬ 0x80 * 256 + 0x00 < 32768 ∧
      (holding .accepted .dht22 ⟨0x00, 0x00, 0x80, 0x00, 0x80⟩).model = .dht22 := by decide

/-! ### The whole machine and the host -/

/-- V13, and a command that is admitted. -/
theorem witness_RejectedExactlyWhenNotAdmitted :
    admitted .convert (inStage .framed) = false ∧ admitted .check (inStage .framed) = true ∧
      admitted (.rd 19) (inStage .converted) = true ∧ admitted (.rd 20) (inStage .converted) = false := by decide

/-- A state of V1 that meets the invariants, the last clause not by default. -/
theorem inv_converted :
    Inv { holding .converted .dht22 ⟨0x01, 0x90, 0x00, 0xC8, 0x59⟩ with hum10 := 400, temp10 := 200 } :=
  ⟨by decide, by decide, nofun, by decide, by decide, by decide, by decide, nofun, by decide, by decide, by decide⟩

theorem witness_ResponseCarriesErr :
    ∃ s t, Inv s ∧ s.st = .converted ∧ exec (.rd 17) s = .next t := ⟨_, _, inv_converted, rfl, rfl⟩

theorem witness_StepKeepsTheInvariant :
    ∃ s t, Inv s ∧ s.st = .converted ∧ step s = .next t := ⟨_, _, inv_converted, rfl, rfl⟩

/-- Two different states that no command can tell apart. -/
theorem witness_UnreadableRegistersAreUnobservable :
    SameVisible (inStage .failed) { inStage .failed with b := frameK1, hum10 := 1, temp10 := 2 } :=
  ⟨rfl, by decide, by decide⟩

theorem witness_OnlyConvertSetmodelAndRdUseTheModel : usesModel (.rd 3) = false := by decide

/-- In `RUN` with one input of each kind: none, a poll, `rst`, a transfer of the fixed length, another command (`CLEAR`),
a reserved word. -/
theorem witness_OnlyPollsAndResetActInRun :
    ∀ port ∈ [[], [Input.command 0x1000000000], [.reset], [.transfer bufferK1], [.command 0x0000000000],
        [.command 0x0800000000]],
      ({ inPhase 0 0 0 frameK1 with cfg := tinyConfig, port := port } : State).st = .run ∧
        (nextOf (step { inPhase 0 0 0 frameK1 with cfg := tinyConfig, port := port })).isSome = true := by decide

/-- E14 raises `Timeout`. -/
theorem witness_ErrorsComeOnlyFromTheirCommands :
    ∃ t, exec (.pollH 85) (inPhase 5 4294967280 2 ⟨2, 0, 0, 0, 0⟩) = .next t ∧
      t.err ≠ (inPhase 5 4294967280 2 ⟨2, 0, 0, 0, 0⟩).err := ⟨_, rfl, by decide⟩

/-- Host parameters inside the source's figures. -/
def hostParams : HostParams := { reqLow11 := 1500, reqLow22 := 800, spacing11 := 1000000, spacing22 := 2000000 }

/-- A silent line: the polls of program P6. -/
def silentLine : ReadEnv :=
  { startNow := 5000, polls := [(true, 5030), (true, 5060), (true, 5090), (true, 5120)], buffer := [], doneNow := 5200 }

/-- A capture of the frame K1. -/
def captureK1 : ReadEnv := { startNow := 0, polls := [], buffer := bufferK1, doneNow := 6000 }

/-- A capture of the bytes of K1 with the checksum 0x4B instead of 0x4A. -/
def captureBadSum : ReadEnv := { captureK1 with buffer := bufferK1.take 11 ++ [0xDB] }

/-- Requests of two samples and of one sample at one sample per microsecond. -/
def shortRequests : HostParams := { hostParams with reqLow11 := 2, reqLow22 := 1 }

/-- A `Ready` session. -/
def readyWorld (v : Variant) : World :=
  { block := { State.resetWith tinyConfig with model := .dht11 }, session := { newSession .dht11 v with stage := .ready },
    line := [] }

/-- R196, R204, counted by hand: at one sample per microsecond a request of 11 (of 5) microseconds is the first 11 (5)
samples low, bit 7 of each byte first (R63). -/
theorem test_request_pattern :
    ([SensorModel.dht11, .dht22].map fun m =>
        requestPattern { hostParams with reqLow11 := 11, reqLow22 := 5 } m { tinyConfig with nS := 32 }) =
      [[0x00, 0x1F, 0xFF, 0xFF], [0x07, 0xFF, 0xFF, 0xFF]] := by decide

/-- Each clause: a model of the caller's, and under `AUTO` a probe that ends in `Timeout`, in `ChecksumMismatch`, in a
Reading (R194). -/
theorem witness_SetupLeavesAModelAndIdle :
    State.reset.st ≠ .run ∧ (setupSession hostParams .dht22 .edge true silentLine State.reset).isSome = true ∧
      ((setupSession hostParams .auto .edge true silentLine State.reset).map fun w => w.session.lastErr) =
        some (some .timeout) ∧
      (State.resetWith tinyConfig).st ≠ .run ∧
      ((setupSession hostParams .auto .sampled true captureBadSum (State.resetWith tinyConfig)).map fun w =>
          (w.session.lastErr, w.session.model)) = some (some .checksumMismatch, .dht22) ∧
      ((setupSession hostParams .auto .sampled true captureK1 (State.resetWith tinyConfig)).map fun w =>
          (w.session.lastErr, w.session.model)) = some (some .none, .dht22) := by decide

/-- Program P6: polls at ages 30, 60, 90 and 120; and polls at the ceiling itself and one past it. -/
theorem witness_DetectionOfASilentLineIsDht11 :
    State.reset.st ≠ .run ∧ silentLine.polls = [5030, 5060, 5090].map (fun t => (true, t)) ++ (true, 5120) :: [] ∧
      (∀ t ∈ [(5030 : Word), 5060, 5090, 5100],
        ((t.toNat : Int) - silentLine.startNow.toNat) % 2 ^ 32 ≤ State.reset.cfg.ceilE) ∧
      (∀ now ∈ [(5120 : Word), 5101],
        (State.reset.cfg.ceilE : Int) < ((now.toNat : Int) - silentLine.startNow.toNat) % 2 ^ 32) :=
  ⟨by decide, rfl, by simp [silentLine, State.reset, State.resetWith, Config.refcfg],
    by simp [silentLine, State.reset, State.resetWith, Config.refcfg]⟩

/-- A read that ends in the Reading of V3 and a read that ends in an error. -/
theorem witness_ReadEndsInAReadingOrAnError :
    ((readyWorld .edge).session.stage = .ready ∧ (readyWorld .edge).block.st ≠ .run ∧
      (readyWorld .edge).block.model ≠ .auto) ∧
      ((readSession hostParams silentLine (readyWorld .edge)).map fun x => (x.2, x.1.block.st)) =
        some (.error (some .timeout), .failed) ∧
      ((readSession hostParams captureK1 (readyWorld .sampled)).map fun x => (x.2, x.1.block.st)) =
        some (.reading ⟨0x42480000, 0x41C00000⟩, .converted) := by decide

theorem witness_ReadDrivesTheRequestOfItsModel :
    (readyWorld .edge).session.stage = .ready ∧ (readyWorld .edge).session.variant = .edge ∧
      (readSession hostParams silentLine (readyWorld .edge)).isSome = true ∧ hostParams.Ok := by decide

theorem witness_AccessorsReturnTheReading :
    ({ newSession .dht11 .edge with reading := some ⟨1, 2⟩, lastErr := some .none } : Session).reading = some ⟨1, 2⟩ ∧
      ({ newSession .dht11 .edge with reading := some ⟨1, 2⟩, lastErr := some .none } : Session).lastErr = some .none :=
  ⟨rfl, rfl⟩

theorem witness_TeardownClearsAndReleases : (readyWorld .edge).block.st ≠ .run := by decide

/-- A capture of K1 (its request low run is one sample) by a `Ready` DHT22 session whose request takes one sample. -/
theorem witness_SampledReadTransmitsItsRequest :
    let w := { readyWorld .sampled with session := { newSession .dht22 .sampled with stage := .ready } }
    (w.session.stage = .ready ∧ w.session.variant = .sampled ∧
        captureK1.buffer.length = (w.block.cfg.nS + 7) / 8 ∧ shortRequests.Ok ∧ w.block.cfg.Ok ∧
        CycleStart shortRequests captureK1 w 2000000 0 0) ∧
      (shortRequests.Ok ∧ tinyConfig.Ok ∧
        1000000 ≤ (shortRequests.reqLow11 - shortRequests.reqLow22) * tinyConfig.fS ∧
        shortRequests.reqLow22 * tinyConfig.fS + 1000000 ≤ tinyConfig.nS * 1000000) := by
  refine ⟨⟨rfl, rfl, rfl, by decide, by decide, ?_⟩, by decide⟩
  exact ⟨fun h => (by cases h), fun _ => ⟨rfl, by unfold CaptureShowsRequest; decide⟩, Nat.le_refl 2000000⟩

end Sys2Proof.Tests
end

section
/-! SUPPORT. What lies outside the reach of every command: the configuration, the sample memory, the inputs still to
come, the count of resets (R7 of 00_scope.md, R67 and R72 of 20_memory.md). -/

namespace Sys2Proof.Machine

/-- `t` agrees with `s` on the parts of the state that only the outside writes: the configuration (R7), the
sample memory, which only a transfer replaces (R67, R72), the inputs still to come and the count of resets. -/
structure SameOutside (s t : State) : Prop where
  cfg : t.cfg = s.cfg
  mem : t.mem = s.mem
  port : t.port = s.port
  epoch : t.epoch = s.epoch

/-- An observed edge stays within the registers of the framer. -/
theorem sameOutside_observeEdge (now : Word) (s : State) : SameOutside s (observeEdge now s) := by
  obtain ⟨st, b, nb, rsp, hedge⟩ := observeEdge_rest now s
  rw [hedge]
  exact ⟨rfl, rfl, rfl, rfl⟩

/-- `DECODE.S` reads the sample memory and does not write it (R67 of 20_memory.md). -/
theorem sameOutside_finishDecode (c : Capture) (s : State) : SameOutside s (finishDecode c s) := by
  obtain ⟨st, err, b, nb, rsp, hdecode⟩ := finishDecode_rest c s
  rw [hdecode]
  exact ⟨rfl, rfl, rfl, rfl⟩

/-- The frame of `Effect`: whatever a command does, it does inside the block. -/
theorem Effect.sameOutside {s t : State} {i : Instr} (h : Effect s i t) : SameOutside s t := by
  cases h with
  | edge level now hst hage hlevel => exact sameOutside_observeEdge now s
  | decoded p0 hst => exact sameOutside_finishDecode _ s
  | rejected | answered | cleared | started | timedOut | waiting | accepted | mismatched | converted | modelSet =>
    exact ⟨rfl, rfl, rfl, rfl⟩

/-- A byte of the sample buffer depends on the memory and the reset count only, also before the first transfer, when
it is a free value (R72; log 8). -/
theorem sampleByte_congr {s t : State} (hmem : t.mem = s.mem) (hepoch : t.epoch = s.epoch) (j : Nat) :
    sampleByte t j = sampleByte s j := by
  simp only [sampleByte, hmem, hepoch]

/-- Settles O50, by the inversion of `exec`: each effect a command can have keeps what only the outside writes, and
every byte of the sample buffer is read from that. -/
theorem noCommandWritesMemoryOrConfiguration : Obligations.NoCommandWritesMemoryOrConfiguration := by
  intro i s t hexec
  obtain ⟨hcfg, hmem, hport, hepoch⟩ := (effect_of_exec hexec).sameOutside
  exact ⟨hcfg, hmem, hport, hepoch, fun j => ⟨by rw [hmem], sampleByte_congr hmem hepoch j⟩⟩

end Sys2Proof.Machine
end

section
/-! SUPPORT. The invariants of R31 (10_state.md): they hold after reset, and every input keeps them. -/

namespace Sys2Proof.Machine

/-! ### At reset -/

/-- The invariants hold after reset of every configuration that meets R8. -/
theorem inv_resetWith {c : Params} (hc : c.Ok) : Inv (State.resetWith c) where
  config := hc
  memory := List.Pairwise.nil
  memoryInside := nofun
  idxRange := by simp [State.resetWith]
  nbRange := by simp [State.resetWith]
  failed := by simp [State.resetWith]
  noError := fun _ => rfl
  running := nofun
  framed := by simp [State.resetWith]
  accepted := by simp [State.resetWith]
  converted := nofun

/-- Settles O2: the reference configuration meets R8. -/
theorem resetMeetsTheInvariant : Obligations.ResetMeetsTheInvariant :=
  ⟨fun _ hc => inv_resetWith hc, inv_resetWith (by decide)⟩

/-- Settles O1: each value stands in the definition of the reset state. -/
theorem resetHoldsTheValuesOfTheSpec : Obligations.ResetHoldsTheValuesOfTheSpec :=
  fun _ => ⟨rfl, rfl, rfl, rfl, rfl, rfl, rfl, rfl⟩

/-! ### Operations that every command shares -/

/-- The response port is outside the invariants. -/
theorem Inv.respond {s : State} (h : Inv s) (a : Ack) (e : ErrorKind) (d : Word) : Inv (respond a e d s) :=
  { h with }

/-- The inputs still to come are outside the invariants. -/
theorem Inv.takeInput {s : State} (h : Inv s) : Inv (takeInput s) := { h with }

/-- `rst` keeps the invariants: all it takes over from the old state is the configuration. -/
theorem Inv.applyReset {s : State} (h : Inv s) : Inv (applyReset s) := { inv_resetWith h.config with }

/-- A transfer of the fixed length leaves a canonical memory inside `N_S` (R63 of 20_memory.md). -/
theorem Inv.transfer {s : State} (h : Inv s) {buffer : List Byte} (hlen : buffer.length = bufferBytes s.cfg) :
    Inv { s with mem := cellsFrom 0 buffer } :=
  { h with
    memory := cellsFrom_wf 0 buffer
    memoryInside := fun x hx => by simpa [hlen] using (cellsFrom_le hx).2 }

/-- Error entry keeps the invariants: `FAILED` comes with one of its two error kinds (R31 d). -/
theorem Inv.raiseError {s : State} (h : Inv s) {k : ErrorKind} (hk : k = .timeout ∨ k = .checksumMismatch) (d : Word) :
    Inv (raiseError k d s) :=
  { h with
    failed := by simp [hk]
    noError := by simp
    running := by simp
    framed := by simp
    accepted := by simp
    converted := by simp }

/-! ### The edge-driven framer -/

/-- The next phase index as a number, while there is one. -/
theorem toInt_succ {i : BitVec 8} (hlow : -3 ≤ i.toInt) (hhigh : i.toInt ≤ 79) : (i + 1).toInt = i.toInt + 1 := by
  rw [BitVec.toInt_add, show (1 : BitVec 8).toInt = 1 by decide, Int.bmod_def]
  omega

/-- One more bit is shifted in exactly by a data phase (R31 b of 10_state.md, R124 of 41_framer_edge.md). -/
theorem bitsBeforePhase_succ {i : BitVec 8} (hlow : -3 ≤ i.toInt) (hhigh : i.toInt ≤ 79) :
    bitsBeforePhase (i + 1) = bitsBeforePhase i + if isDataPhase i then 1 else 0 := by
  rw [bitsBeforePhase, bitsBeforePhase, toInt_succ hlow hhigh, isDataPhase_eq]
  split <;> simp_all <;> omega

/-- An observed edge counts the bit of a data phase. -/
theorem observeEdge_nb (now : Word) (s : State) :
    (observeEdge now s).nb = if isDataPhase s.idx then s.nb + 1 else s.nb := by
  unfold observeEdge shiftPhaseBit
  split <;> split <;> rfl

/-- An observed edge keeps the count of bits at the one of R31 b. -/
theorem observeEdge_bits {s : State} (h : Inv s) (hrun : s.st = .run) (now : Word) :
    (observeEdge now s).nb.toNat = bitsBeforePhase (s.idx + 1) := by
  obtain ⟨hhigh, hbits⟩ := h.running hrun
  have hlt : s.nb.toNat < 40 := by rw [hbits, bitsBeforePhase]; omega
  rw [bitsBeforePhase_succ h.idxRange.1 hhigh, observeEdge_nb, ← hbits]
  split
  · rw [BitVec.toNat_add, show (1 : BitVec 6).toNat = 1 by decide]; omega
  · rfl

/-- With R31 (b) for the new phase index, the last edge frames with 40 bits and every other edge stays in `RUN`. -/
theorem Inv.observeEdge {s : State} (h : Inv s) (hrun : s.st = .run) (now : Word) : Inv (observeEdge now s) := by
  obtain ⟨hhigh, -⟩ := h.running hrun
  have hlow := h.idxRange.1
  have hsucc := toInt_succ hlow hhigh
  have herr : s.err = .none := h.noError (by simp [hrun])
  have hbits := observeEdge_bits h hrun now
  have hst := observeEdge_st (now := now) hrun
  obtain ⟨st, b, nb, rsp, hedge⟩ := observeEdge_rest now s
  rw [hedge] at hbits hst ⊢
  by_cases hlast : s.idx = 79
  · have h40 : nb = 40 := BitVec.eq_of_toNat_eq (by rw [hbits, hlast]; decide)
    obtain rfl : st = .framed := hst.trans (if_pos hlast)
    exact
      { h with
        idxRange := by simp only [hsucc]; omega
        nbRange := by simp [h40]
        failed := by simp [herr]
        noError := fun _ => herr
        running := nofun
        framed := fun _ => h40
        accepted := by simp
        converted := nofun }
  · have hlt : s.idx.toInt < 79 := lt_of_le_of_ne hhigh fun e => hlast (BitVec.toInt_inj.mp e)
    obtain rfl : st = .run := hst.trans (if_neg hlast)
    exact
      { h with
        idxRange := by simp only [hsucc]; omega
        nbRange := by simp only [hbits, bitsBeforePhase, hsucc]; omega
        failed := by simp [herr]
        noError := fun _ => herr
        running := fun _ => ⟨by simp only [hsucc]; omega, hbits⟩
        framed := by simp
        accepted := by simp
        converted := nofun }

/-! ### The sampled framer -/

/-- A capture of at most `k` data bits, and of all `k` when it is complete. -/
def Capture.CountsTo (c : Capture) (k : Nat) : Prop := c.nb.toNat ≤ k ∧ (c.complete = true → c.nb.toNat = k)

/-- The scan of `n` more data bits counts one for each bit it shifts in (R144, R145 of 42_framer_sampled.md). -/
theorem decodeBits_countsTo (s : State) (n p : Nat) (frame : RawFrame) (nb : BitVec 6) (h : nb.toNat + n ≤ 40) :
    (decodeBits s n p frame nb).CountsTo (nb.toNat + n) := by
  have stopped : (Capture.mk frame nb false).CountsTo (nb.toNat + n) := ⟨Nat.le_add_right _ _, nofun⟩
  induction n generalizing p frame nb with
  | zero => exact ⟨Nat.le_refl _, fun _ => rfl⟩
  | succ n ih =>
    have hnb : (nb + 1).toNat = nb.toNat + 1 := by
      rw [BitVec.toNat_add, show (1 : BitVec 6).toNat = 1 by decide]
      omega
    simp only [decodeBits]
    split
    · exact stopped
    · split
      · exact stopped
      · split
        · rw [show nb.toNat + (n + 1) = (nb + 1).toNat + n by omega]
          exact ih _ _ _ (by omega) ⟨Nat.le_add_right _ _, nofun⟩
        · exact stopped

theorem decodeCapture_countsTo (s : State) (p0 : Nat) : (decodeCapture s p0).CountsTo 40 := by
  have stopped : (Capture.mk RawFrame.zero 0 false).CountsTo 40 := ⟨by decide, nofun⟩
  unfold decodeCapture
  split
  · split
    · exact stopped
    · exact decodeBits_countsTo s 40 _ RawFrame.zero 0 (by decide)
  · exact stopped

theorem Inv.finishDecode {s : State} (h : Inv s) {c : Capture} (hc : c.CountsTo 40) : Inv (finishDecode c s) := by
  obtain ⟨hle, hcomplete⟩ := hc
  rcases finishDecode_cases c s with ⟨hdone, heq⟩ | ⟨-, heq⟩ <;> rw [heq]
  · have h40 : c.nb = 40 := BitVec.eq_of_toNat_eq (hcomplete hdone)
    exact
      { h with
        nbRange := hle
        failed := by simp
        noError := fun _ => rfl
        running := nofun
        framed := fun _ => h40
        accepted := by simp
        converted := nofun }
  · exact
      { h with
        nbRange := hle
        failed := by simp
        noError := by simp
        running := nofun
        framed := by simp
        accepted := by simp
        converted := nofun }

/-! ### The commands -/

/-- `CLEAR` goes to `IDLE` with no error. -/
theorem Inv.clear {s : State} (h : Inv s) : Inv { s with st := .idle, err := .none } :=
  { h with
    failed := by simp
    noError := fun _ => rfl
    running := nofun
    framed := by simp
    accepted := by simp
    converted := nofun }

/-- `START.E` begins a decode: edge -3 awaited, and no bit before it (R122 of 41_framer_edge.md). -/
theorem Inv.start {s : State} (h : Inv s) (now : Word) :
    Inv { s with st := .run, err := .none, idx := -3, nb := 0, b := RawFrame.zero, t0 := now } :=
  { h with
    idxRange := by simp
    nbRange := by simp
    failed := by simp
    noError := fun _ => rfl
    running := fun _ => by simp [bitsBeforePhase]
    framed := by simp
    accepted := by simp
    converted := nofun }

/-- A frame whose checksum has been verified is `ACCEPTED` (R31 e of 10_state.md). -/
theorem Inv.accept {s : State} (h : Inv s) (hst : s.st = .framed) (hsum : checksumHolds s.b = true) :
    Inv { s with st := .accepted } :=
  have herr : s.err = .none := h.noError (by simp [hst])
  { h with
    failed := by simp [herr]
    noError := fun _ => herr
    running := nofun
    framed := fun _ => h.framed (.inl hst)
    accepted := fun _ => (checksumHolds_iff s.b).mp hsum
    converted := nofun }

/-- A conversion writes the Reading of the accepted frame (R170 of 44_converter.md). -/
theorem Inv.writeReading {s : State} (h : Inv s) (hst : s.st = .accepted) {r : BitVec 16 × BitVec 16}
    (hr : conversion s.model s.b = some r) : Inv (writeReading r.1 r.2 s) :=
  have herr : s.err = .none := h.noError (by simp [hst])
  { h with
    failed := by simp [herr]
    noError := fun _ => herr
    running := nofun
    framed := fun _ => h.framed (.inr (.inl hst))
    accepted := fun _ => h.accepted (.inl hst)
    converted := fun _ => hr }

/-- `MODEL` is free where no Reading stands under it. -/
theorem Inv.setModel {s : State} (h : Inv s) (hst : s.st ≠ .converted) (m : SensorModel) : Inv { s with model := m } :=
  { h with converted := fun e => absurd e hst }

/-- Every effect a command can have keeps the invariants. -/
theorem Effect.inv {s t : State} {i : Instr} (he : Effect s i t) (h : Inv s) : Inv t := by
  cases he with
  | rejected | answered | waiting => exact h.respond _ _ _
  | cleared => exact h.clear.respond _ _ _
  | started now => exact (h.start now).respond _ _ _
  | timedOut => exact h.raiseError (.inl rfl) _
  | edge level now hrun => exact h.observeEdge hrun now
  | decoded p0 => exact h.finishDecode (decodeCapture_countsTo s p0.toNat)
  | accepted hst hsum => exact (h.accept hst hsum).respond _ _ _
  | mismatched => exact h.raiseError (.inr rfl) _
  | converted r hst hr => exact h.writeReading hst hr
  | modelSet m model hm hrun hst => exact (h.setModel hst model).respond _ _ _

/-- Settles O47: the case split is over the inputs a step can take; a command keeps the invariants because each of its
effects does. -/
theorem stepKeepsTheInvariant : Obligations.StepKeepsTheInvariant := by
  intro s t h hstep
  rcases step_cases hstep with ⟨-, rfl⟩ | ⟨_, -, rfl⟩ | ⟨buffer, _, -, hlen, rfl⟩ | ⟨_, _, _, -, -, rfl⟩ |
    ⟨_, _, i, -, -, hexec⟩
  · exact h
  · exact h.takeInput.applyReset
  · exact h.takeInput.transfer hlen
  · exact h.takeInput.respond _ _ _
  · exact (effect_of_exec hexec).inv h.takeInput

end Sys2Proof.Machine
end

section
/-! SUPPORT. Which commands a stage admits (R34, R35 of 10_state.md), and one equation for each command: what it
answers when it is admitted, and REJECTED when it is not. -/

namespace Sys2Proof.Machine

/-! ### The tables of R34 and R35 -/

/-- `RD` is admitted exactly for a register that has a number and is readable in the stage (R35 of 10_state.md). -/
theorem admitted_rd (r : BitVec 5) (s : State) :
    admitted (.rd r) s = (regOfNumber r).any fun reg => readable reg s.st := by
  simp only [admitted]
  generalize s.st = st
  revert r
  cases st <;> decide

theorem modelOfCode_eq_none {m : BitVec 2} : modelOfCode m = none ↔ m = 3 := by
  revert m
  decide

/-- No register is readable in `RUN` (R35 of 10_state.md). -/
theorem readable_run (reg : Reg) : readable reg .run = false := by cases reg <;> rfl

/-- The commands that only answer a value are admitted in no `RUN`. -/
theorem ne_run_of_answersOnly {i : Instr} {s : State} (hi : answersOnly i = true) (h : admitted i s = true) :
    s.st ≠ .run := by
  intro hrun
  cases i with
  | rd r => simp [admitted_rd, hrun, readable_run] at h
  | status | clsED | clsSD | clsES | clsSS => simp [admitted, hrun] at h
  | _ => cases hi

/-! ### Admitted commands -/

/-- The data of the response of a command that only answers (R182, R183 of 45_control_and_host.md, R114 to R117 of
40_classifier.md). -/
def answer (i : Instr) (s : State) : Word :=
  match i with
  | .rd r => (regOfNumber r).elim 0 fun reg => readReg reg s
  | .status k => k.setWidth 32
  | .clsED d => (symbolCode (classify s.cfg .edge .data d.toNat)).setWidth 32
  | .clsSD d => (symbolCode (classify s.cfg .sampled .data d.toNat)).setWidth 32
  | .clsES d => (symbolCode (classify s.cfg .edge .start d.toNat)).setWidth 32
  | .clsSS d => (symbolCode (classify s.cfg .sampled .start d.toNat)).setWidth 32
  | .clear | .startE _ | .decodeS _ | .check | .convert | .setmodel _ | .pollL _ | .pollH _ => 0

theorem classification_of_ne_run {s : State} (h : s.st ≠ .run) (v : Variant) (role : Role) (d : Word) :
    classification v role d s =
      respond .done s.err ((symbolCode (classify s.cfg v role d.toNat)).setWidth 32) s :=
  if_neg h

/-- `RD`, `STATUS` and the classification commands, where admitted, answer a value and write nothing. -/
theorem exec_answersOnly {i : Instr} {s : State} (hi : answersOnly i = true) (h : admitted i s = true) :
    exec i s = .next (respond .done s.err (answer i s) s) := by
  have hrun := ne_run_of_answersOnly hi h
  cases i with
  | rd r =>
    rw [admitted_rd, Option.any_eq_true] at h
    obtain ⟨reg, hreg, hread⟩ := h
    simp [exec, execRd, answer, hreg, hread]
  | status k => exact congrArg _ (if_neg hrun)
  | clsED d | clsSD d | clsES d | clsSS d => exact congrArg _ (classification_of_ne_run hrun _ _ d)
  | _ => cases hi

theorem exec_clear {s : State} (h : s.st ≠ .run) :
    exec .clear s = .next (respond .done .none 0 { s with st := .idle, err := .none }) :=
  congrArg _ (if_neg h)

theorem exec_startE {s : State} (h : s.st ≠ .run) (now : Word) :
    exec (.startE now) s =
      .next (respond .done .none 0
        { s with st := .run, err := .none, idx := -3, nb := 0, b := RawFrame.zero, t0 := now }) :=
  congrArg _ (if_neg h)

theorem exec_decodeS {s : State} (h : s.st ≠ .run) (p0 : Word) :
    exec (.decodeS p0) s = .next (finishDecode (decodeCapture s p0.toNat) s) :=
  congrArg _ (if_neg h)

theorem exec_check {s : State} (h : s.st = .framed) :
    exec .check s =
      .next (if checksumHolds s.b then respond .done .none 0 { s with st := .accepted }
        else raiseError .checksumMismatch 0 s) :=
  congrArg _ (if_neg (not_not_intro h))

theorem exec_convert {s : State} (h : s.st = .accepted) {r : BitVec 16 × BitVec 16}
    (hr : conversion s.model s.b = some r) : exec .convert s = .next (writeReading r.1 r.2 s) := by
  simp [exec, execConvert, h, hr]

theorem exec_setmodel {s : State} {m : BitVec 2} {model : SensorModel} (hm : modelOfCode m = some model)
    (hrun : s.st ≠ .run) (hconv : s.st ≠ .converted) :
    exec (.setmodel m) s = .next (respond .done s.err (m.setWidth 32) { s with model := model }) := by
  simp [exec, execSetmodel, hm, hrun, hconv]

/-! ### Commands that are not admitted -/

/-- A command that is not admitted is answered REJECTED (R34 of 10_state.md, R86 of 30_encoding.md). -/
theorem exec_of_not_admitted {i : Instr} {s : State} (h : admitted i s = false) : exec i s = .next (reject s) := by
  cases i with
  | clear | startE | decodeS | status | clsED | clsSD | clsES | clsSS =>
    have hrun : s.st = .run := by simpa [admitted] using h
    exact congrArg _ (if_pos hrun)
  | check =>
    have hst : s.st ≠ .framed := by simpa [admitted] using h
    exact congrArg _ (if_pos hst)
  | convert =>
    by_cases hst : s.st = .accepted
    · have hauto : s.model = .auto := by simpa [admitted, hst] using h
      simp [exec, execConvert, hst, conversion_eq_none.mpr hauto]
    · exact congrArg _ (if_pos hst)
  | setmodel m =>
    cases hm : modelOfCode m with
    | none => simp [exec, execSetmodel, hm]
    | some model =>
      have hne : m ≠ 3 := fun e => by simp [modelOfCode_eq_none.mpr e] at hm
      have hst : s.st = .run ∨ s.st = .converted := by
        by_contra hcon
        simp_all [admitted]
      simp [exec, execSetmodel, hm, hst]
  | rd r =>
    rw [admitted_rd] at h
    cases hreg : regOfNumber r with
    | none => simp [exec, execRd, hreg]
    | some reg =>
      have hread : readable reg s.st = false := by simpa [hreg] using h
      simp [exec, execRd, hreg, hread]
  | pollL | pollH =>
    have hst : s.st ≠ .run := by simpa [admitted] using h
    exact congrArg _ (if_pos hst)

/-- A poll in `RUN` is never answered REJECTED (R124 of 41_framer_edge.md). -/
theorem poll_running_answers (level : Bool) (now : Word) {s : State} (h : s.st = .run) :
    ∃ a e d, a ≠ .rejected ∧ (poll level now s).rsp = some (responseWord a e d) := by
  rcases poll_cases level now s with ⟨hne, -⟩ | ⟨-, -, heq⟩ | ⟨-, -, -, heq⟩ | ⟨-, -, -, heq⟩
  · exact absurd h hne
  · exact ⟨.done, _, _, nofun, by rw [heq]; rfl⟩
  · exact ⟨.pending, _, _, nofun, by rw [heq]; rfl⟩
  · rw [heq, observeEdge_rsp]
    split
    · exact ⟨.done, _, _, nofun, rfl⟩
    · exact ⟨.pending, _, _, nofun, rfl⟩

theorem finishDecode_answers (c : Capture) (s : State) :
    ∃ e d, (finishDecode c s).rsp = some (responseWord .done e d) := by
  rcases finishDecode_cases c s with ⟨-, heq⟩ | ⟨-, heq⟩ <;> exact ⟨_, _, by rw [heq]⟩

/-- An admitted command is answered, and not by REJECTED. -/
theorem exec_of_admitted {i : Instr} {s : State} (h : admitted i s = true) :
    ∃ t a e d, exec i s = .next t ∧ a ≠ .rejected ∧ t.rsp = some (responseWord a e d) := by
  cases i with
  | rd | status | clsED | clsSD | clsES | clsSS => exact ⟨_, .done, _, _, exec_answersOnly rfl h, nofun, rfl⟩
  | clear => exact ⟨_, .done, _, _, exec_clear (by simpa [admitted] using h), nofun, rfl⟩
  | startE now => exact ⟨_, .done, _, _, exec_startE (by simpa [admitted] using h) now, nofun, rfl⟩
  | decodeS p0 =>
    obtain ⟨e, d, hrsp⟩ := finishDecode_answers (decodeCapture s p0.toNat) s
    exact ⟨_, .done, e, d, exec_decodeS (by simpa [admitted] using h) p0, nofun, hrsp⟩
  | check =>
    rw [exec_check (by simpa [admitted] using h)]
    split
    · exact ⟨_, .done, _, _, rfl, nofun, rfl⟩
    · exact ⟨_, .done, _, _, rfl, nofun, rfl⟩
  | convert =>
    obtain ⟨hst, hauto⟩ : s.st = .accepted ∧ s.model ≠ .auto := by simpa [admitted] using h
    obtain ⟨r, hr⟩ := Option.ne_none_iff_exists'.mp (conversion_eq_none.not.mpr hauto)
    exact ⟨_, .done, _, _, exec_convert hst hr, nofun, rfl⟩
  | setmodel m =>
    obtain ⟨⟨hm, hrun⟩, hconv⟩ : (m ≠ 3 ∧ s.st ≠ .run) ∧ s.st ≠ .converted := by simpa [admitted] using h
    obtain ⟨model, hmodel⟩ := Option.ne_none_iff_exists'.mp (modelOfCode_eq_none.not.mpr hm)
    exact ⟨_, .done, _, _, exec_setmodel hmodel hrun hconv, nofun, rfl⟩
  | pollL now | pollH now =>
    obtain ⟨a, e, d, ha, hrsp⟩ := poll_running_answers _ now (by simpa [admitted] using h)
    exact ⟨_, a, e, d, rfl, ha, hrsp⟩

/-- Settles O44: the tables of R34 and R35 against the equations of the commands. -/
theorem rejectedExactlyWhenNotAdmitted : Obligations.RejectedExactlyWhenNotAdmitted :=
  fun _ _ => ⟨exec_of_not_admitted, exec_of_admitted⟩

end Sys2Proof.Machine
end

section
/-! SUPPORT. How commands move `ST` and `IDX` (R24, R34 of 10_state.md). -/

namespace Sys2Proof.Machine

/-- The end of `DECODE.S` is `FRAMED` or `FAILED`. -/
theorem finishDecode_st (c : Capture) (s : State) :
    (finishDecode c s).st = .framed ∨ (finishDecode c s).st = .failed := by
  rcases finishDecode_cases c s with ⟨-, heq⟩ | ⟨-, heq⟩ <;> simp [heq]

@[simp] theorem finishDecode_idx (c : Capture) (s : State) : (finishDecode c s).idx = s.idx := by
  obtain ⟨_, _, _, _, _, heq⟩ := finishDecode_rest c s
  rw [heq]

@[simp] theorem observeEdge_idx (now : Word) (s : State) : (observeEdge now s).idx = s.idx + 1 := by
  obtain ⟨_, _, _, _, heq⟩ := observeEdge_rest now s
  rw [heq]

/-- Settles O30: two effects write `IDX`, `START.E` and an observed edge. -/
theorem idxNeverSkips : Obligations.IdxNeverSkips := by
  intro i s t hexec
  cases effect_of_exec hexec with
  | started now => exact .inr (.inl ⟨now, rfl, by simp⟩)
  | edge level now hrun => exact .inr (.inr ⟨⟨level, now, rfl⟩, hrun, observeEdge_idx now s⟩)
  | decoded p0 => exact .inl (finishDecode_idx _ s)
  | rejected | answered | cleared | timedOut | waiting | accepted | mismatched | converted | modelSet =>
    exact .inl rfl

/-- The moves out of `RUN` and within it are those of either poll command (R34 of 10_state.md). -/
theorem stageMove_pollCommand (level : Bool) (now : Word) (target : Stage) :
    stageMove (pollCommand level now) .run target = (target == .failed || target == .run || target == .framed) := by
  cases level <;> rfl

/-- Settles O46: the stage each effect leads to is in the row of its command. -/
theorem stageMovesByTheTable : Obligations.StageMovesByTheTable := by
  intro i s t hexec
  cases effect_of_exec hexec with
  | rejected | answered | waiting | modelSet => exact .inl rfl
  | cleared hrun => exact .inr (by simp [stageMove, hrun])
  | started now hrun => exact .inr (by simp [stageMove, hrun])
  | timedOut level now hrun => exact .inr (by simp [hrun, stageMove_pollCommand])
  | edge level now hrun =>
    refine .inr ?_
    rw [hrun, stageMove_pollCommand, observeEdge_st hrun]
    split <;> rfl
  | decoded p0 hrun =>
    refine .inr ?_
    rcases finishDecode_st (decodeCapture s p0.toNat) s with hst | hst <;> simp [stageMove, hrun, hst]
  | accepted hst => exact .inr (by simp [stageMove, hst])
  | mismatched hst => exact .inr (by simp [stageMove, hst])
  | converted r hst => exact .inr (by simp [stageMove, hst])

end Sys2Proof.Machine
end

section
/-! SUPPORT. What commands do not use: `MODEL` (R23 of 10_state.md), and the registers that a stage does not let be
read (R35). Two states that differ in those alone are run side by side. -/

namespace Sys2Proof.Machine

/-! ### The scan reads the samples alone -/

/-- `t` has the samples of `s`: the configuration, the memory and the count of resets that free bytes depend on. -/
structure SameSamples (s t : State) : Prop where
  cfg : t.cfg = s.cfg
  mem : t.mem = s.mem
  epoch : t.epoch = s.epoch

section
variable {s t : State} (h : SameSamples s t)
include h

theorem SameSamples.memRead (a : Nat) : memRead t a = memRead s a := memRead_congr h.mem h.epoch a

theorem SameSamples.scanRun (level : Bool) (left q : Nat) : scanRun t level left q = scanRun s level left q := by
  induction left generalizing q with
  | zero => rfl
  | succ left ih => simp only [Machine.scanRun, h.memRead, ih]

theorem SameSamples.nextRun (p : Nat) : nextRun t p = nextRun s p := by
  simp only [Machine.nextRun, h.memRead, h.cfg, h.scanRun]

theorem SameSamples.skipRuns (n p : Nat) : skipRuns t n p = skipRuns s n p := by
  induction n generalizing p with
  | zero => rfl
  | succ n ih => simp only [Machine.skipRuns, h.nextRun, funext ih]

theorem SameSamples.decodeBits (n p : Nat) (frame : RawFrame) (nb : BitVec 6) :
    decodeBits t n p frame nb = decodeBits s n p frame nb := by
  induction n generalizing p frame nb with
  | zero => rfl
  | succ n ih => simp only [Machine.decodeBits, h.nextRun, h.cfg, ih]

theorem SameSamples.decodeCapture (p0 : Nat) : decodeCapture t p0 = decodeCapture s p0 := by
  simp only [Machine.decodeCapture, h.cfg, h.skipRuns, h.decodeBits]

end

/-! ### The framer does not touch the converter's registers -/

/-- The registers of the converter replaced: `MODEL`, `HUM10`, `TEMP10`. -/
def mapConverter (model : SensorModel → SensorModel) (hum temp : BitVec 16 → BitVec 16) (s : State) : State :=
  { s with model := model s.model, hum10 := hum s.hum10, temp10 := temp s.temp10 }

section
variable (model : SensorModel → SensorModel) (hum temp : BitVec 16 → BitVec 16)

theorem shiftPhaseBit_mapConverter (now : Word) (s : State) :
    shiftPhaseBit now (mapConverter model hum temp s) = mapConverter model hum temp (shiftPhaseBit now s) := by
  simp only [shiftPhaseBit, apply_ite (mapConverter model hum temp)]
  rfl

theorem observeEdge_mapConverter (now : Word) (s : State) :
    observeEdge now (mapConverter model hum temp s) = mapConverter model hum temp (observeEdge now s) := by
  simp only [observeEdge, shiftPhaseBit_mapConverter, apply_ite (mapConverter model hum temp)]
  rfl

/-- A poll neither reads nor writes the registers of the converter (R124 of 41_framer_edge.md). -/
theorem poll_mapConverter (level : Bool) (now : Word) (s : State) :
    poll level now (mapConverter model hum temp s) = mapConverter model hum temp (poll level now s) := by
  simp only [poll, observeEdge_mapConverter, apply_ite (mapConverter model hum temp)]
  rfl

end

/-! ### MODEL -/

/-- Only `CONVERT` and `SETMODEL` could be admitted by `MODEL`. -/
theorem admitted_withModel {i : Instr} (hi : usesModel i = false) (s : State) (m : SensorModel) :
    admitted i { s with model := m } = admitted i s := by
  cases i with
  | convert | setmodel => cases hi
  | _ => rfl

/-- A register has one number (R40 of 10_state.md). -/
theorem eq_regNumber {r : BitVec 5} {reg : Reg} (h : regOfNumber r = some reg) : r = regNumber reg := by
  revert h r
  cases reg <;> decide

/-- `RD MODEL` is the one answer that shows `MODEL`. -/
theorem answer_withModel {i : Instr} (hi : usesModel i = false) (s : State) (m : SensorModel) :
    answer i { s with model := m } = answer i s := by
  cases i with
  | rd r =>
    cases hreg : regOfNumber r with
    | none => simp only [answer, hreg, Option.elim]
    | some reg =>
      cases reg with
      | model => simp [usesModel, eq_regNumber hreg, regNumber] at hi
      | _ => simp only [answer, hreg, Option.elim]; rfl
  | _ => rfl

theorem finishDecode_withModel (c : Capture) (s : State) (m : SensorModel) :
    finishDecode c { s with model := m } = { finishDecode c s with model := m } := by
  unfold finishDecode
  split <;> rfl

/-- Settles O49: `MODEL` does not decide whether such a command is admitted, and each admitted one commutes with a
change of `MODEL`. -/
theorem onlyConvertSetmodelAndRdUseTheModel : Obligations.OnlyConvertSetmodelAndRdUseTheModel := by
  intro i s m hi
  have hadm := admitted_withModel hi s m
  cases ha : admitted i s with
  | false => rw [exec_of_not_admitted ha, exec_of_not_admitted (hadm.trans ha)]; rfl
  | true =>
    rw [ha] at hadm
    cases i with
    | convert | setmodel => cases hi
    | rd | status | clsED | clsSD | clsES | clsSS =>
      rw [exec_answersOnly rfl ha, exec_answersOnly rfl hadm, answer_withModel hi]
      rfl
    | clear =>
      have hrun : s.st ≠ .run := by simpa [admitted] using ha
      rw [exec_clear hrun, exec_clear (s := { s with model := m }) hrun]
      rfl
    | startE now =>
      have hrun : s.st ≠ .run := by simpa [admitted] using ha
      rw [exec_startE hrun, exec_startE (s := { s with model := m }) hrun]
      rfl
    | decodeS p0 =>
      have hrun : s.st ≠ .run := by simpa [admitted] using ha
      have hsame : SameSamples s { s with model := m } := ⟨rfl, rfl, rfl⟩
      rw [exec_decodeS hrun, exec_decodeS (s := { s with model := m }) hrun, hsame.decodeCapture,
        finishDecode_withModel]
      rfl
    | check =>
      have hst : s.st = .framed := by simpa [admitted] using ha
      rw [exec_check hst, exec_check (s := { s with model := m }) hst]
      simp only [mapNext]
      split <;> rfl
    | pollL now => exact congrArg _ (poll_mapConverter (fun _ => m) id id false now s)
    | pollH now => exact congrArg _ (poll_mapConverter (fun _ => m) id id true now s)

/-! ### Registers that may not be read -/

/-- The two states of `SameVisible`, the second written as a change of the first. -/
theorem SameVisible.exists_eq {s t : State} (h : SameVisible s t) :
    ∃ b hum temp, t = { s with b := b, hum10 := hum, temp10 := temp } := ⟨_, _, _, h.rest⟩

section
variable {s t : State} (h : SameVisible s t)
include h

theorem SameVisible.st : t.st = s.st := by rw [h.rest]
theorem SameVisible.err : t.err = s.err := by rw [h.rest]
theorem SameVisible.model : t.model = s.model := by rw [h.rest]
theorem SameVisible.port : t.port = s.port := by rw [h.rest]
theorem SameVisible.convs : t.convs = s.convs := by rw [h.rest]

theorem SameVisible.sameSamples : SameSamples s t := by
  rw [h.rest]
  exact ⟨rfl, rfl, rfl⟩

end

/-- One response to both. -/
theorem SameVisible.respond {s t : State} (h : SameVisible s t) (a : Ack) (e : ErrorKind) (d : Word) :
    SameVisible (respond a e d s) (respond a e d t) := by
  obtain ⟨b, hum, temp, rfl⟩ := h.exists_eq
  exact ⟨rfl, h.frame, h.reading⟩

theorem SameVisible.takeInput {s t : State} (h : SameVisible s t) : SameVisible (takeInput s) (takeInput t) := by
  obtain ⟨b, hum, temp, rfl⟩ := h.exists_eq
  exact ⟨rfl, h.frame, h.reading⟩

theorem SameVisible.reject {s t : State} (h : SameVisible s t) : SameVisible (reject s) (reject t) := by
  unfold Machine.reject
  rw [h.err]
  exact h.respond _ _ _

/-- A command is admitted by `ST` and `MODEL` (R34 of 10_state.md). -/
theorem admitted_congr {s t : State} (hst : t.st = s.st) (hmodel : t.model = s.model) (i : Instr) :
    admitted i t = admitted i s := by
  simp only [admitted, hst, hmodel]

/-- A readable register holds the same in both states (R35 of 10_state.md). -/
theorem SameVisible.readReg {s t : State} (h : SameVisible s t) {reg : Reg} (hread : readable reg s.st = true) :
    readReg reg t = readReg reg s := by
  have hframe : frameReadable s.st = true → t.b = s.b := fun hf =>
    h.frame (by cases hst : s.st <;> simp_all [frameReadable])
  have hreading : (s.st == .converted) = true → t.hum10 = s.hum10 ∧ t.temp10 = s.temp10 := fun hc =>
    h.reading (by simpa using hc)
  cases reg with
  | st | err | model | idx | nb | t0 => rw [h.rest]; rfl
  | b0 | b1 | b2 | b3 | b4 => simp only [Machine.readReg, hframe hread]
  | hum10 | humf => simp only [Machine.readReg, (hreading hread).1]
  | temp10 | tempf => simp only [Machine.readReg, (hreading hread).2, h.convs]

theorem SameVisible.answer {s t : State} (h : SameVisible s t) {i : Instr} (ha : admitted i s = true) :
    answer i t = answer i s := by
  cases i with
  | rd r =>
    rw [admitted_rd, Option.any_eq_true] at ha
    obtain ⟨reg, hreg, hread⟩ := ha
    simp only [Machine.answer, hreg, Option.elim, h.readReg hread]
  | clsED | clsSD | clsES | clsSS => simp only [Machine.answer, h.sameSamples.cfg]
  | _ => rfl

/-- Outside `CONVERTED` any Reading is as good as any other. -/
theorem sameVisible_mapConverter {s : State} (h : s.st ≠ .converted) (hum temp : BitVec 16) :
    SameVisible s (mapConverter id (fun _ => hum) (fun _ => temp) s) :=
  ⟨rfl, fun _ => rfl, fun e => absurd e h⟩

theorem poll_st_ne_converted (level : Bool) (now : Word) {s : State} (h : s.st = .run) :
    (poll level now s).st ≠ .converted := by
  rcases poll_cases level now s with ⟨hne, -⟩ | ⟨-, -, heq⟩ | ⟨-, -, -, heq⟩ | ⟨-, -, -, heq⟩
  · exact absurd h hne
  · simp [heq]
  · simp [heq, h]
  · rw [heq, observeEdge_st h]
    split <;> simp

/-- A poll in `RUN` shifts the same `B` in both states. -/
theorem SameVisible.poll {s t : State} (h : SameVisible s t) (hrun : s.st = .run) (level : Bool) (now : Word) :
    SameVisible (poll level now s) (poll level now t) := by
  have ht : t = mapConverter id (fun _ => t.hum10) (fun _ => t.temp10) s := by
    have hrest := h.rest
    rwa [h.frame (.inl hrun)] at hrest
  rw [ht, poll_mapConverter]
  exact sameVisible_mapConverter (poll_st_ne_converted level now hrun) _ _

/-- `DECODE.S` writes the whole frame. -/
theorem SameVisible.finishDecode {s t : State} (h : SameVisible s t) (c : Capture) :
    SameVisible (finishDecode c s) (finishDecode c t) := by
  obtain ⟨b, hum, temp, rfl⟩ := h.exists_eq
  unfold Machine.finishDecode
  split <;> exact ⟨rfl, fun _ => rfl, nofun⟩

/-- An admitted command gives both states the same response and writes the same into both. -/
theorem SameVisible.exec_admitted {s t : State} (h : SameVisible s t) {i : Instr} (ha : admitted i s = true)
    (ha' : admitted i t = true) : SameOutcome (exec i s) (exec i t) := by
  have hstage := h.st
  cases i with
  | rd | status | clsED | clsSD | clsES | clsSS =>
    rw [exec_answersOnly rfl ha, exec_answersOnly rfl ha', h.answer ha, h.err]
    exact h.respond _ _ _
  | clear =>
    have hrun : s.st ≠ .run := by simpa [admitted] using ha
    rw [exec_clear hrun, exec_clear (hstage ▸ hrun), h.rest]
    exact ⟨rfl, by simp, nofun⟩
  | startE now =>
    have hrun : s.st ≠ .run := by simpa [admitted] using ha
    rw [exec_startE hrun, exec_startE (hstage ▸ hrun), h.rest]
    exact ⟨rfl, fun _ => rfl, nofun⟩
  | decodeS p0 =>
    have hrun : s.st ≠ .run := by simpa [admitted] using ha
    rw [exec_decodeS hrun, exec_decodeS (hstage ▸ hrun), h.sameSamples.decodeCapture]
    exact h.finishDecode _
  | check =>
    have hst : s.st = .framed := by simpa [admitted] using ha
    have hb : t.b = s.b := h.frame (.inr (.inl hst))
    rw [exec_check hst, exec_check (hstage.trans hst), hb, h.rest, hb]
    split <;> exact ⟨rfl, fun _ => rfl, nofun⟩
  | convert =>
    obtain ⟨hst, hauto⟩ : s.st = .accepted ∧ s.model ≠ .auto := by simpa [admitted] using ha
    obtain ⟨r, hr⟩ := Option.ne_none_iff_exists'.mp (conversion_eq_none.not.mpr hauto)
    have hb : t.b = s.b := h.frame (.inr (.inr (.inl hst)))
    rw [exec_convert hst hr, exec_convert (hstage.trans hst) (by rw [h.model, hb]; exact hr), h.rest, hb]
    exact ⟨rfl, fun _ => rfl, fun _ => ⟨rfl, rfl⟩⟩
  | setmodel m =>
    obtain ⟨⟨hm, hrun⟩, hconv⟩ : (m ≠ 3 ∧ s.st ≠ .run) ∧ s.st ≠ .converted := by simpa [admitted] using ha
    obtain ⟨model, hmodel⟩ := Option.ne_none_iff_exists'.mp (modelOfCode_eq_none.not.mpr hm)
    rw [exec_setmodel hmodel hrun hconv, exec_setmodel hmodel (hstage ▸ hrun) (hstage ▸ hconv)]
    obtain ⟨b, hum, temp, rfl⟩ := h.exists_eq
    exact ⟨rfl, h.frame, h.reading⟩
  | pollL now => exact h.poll (by simpa [admitted] using ha) false now
  | pollH now => exact h.poll (by simpa [admitted] using ha) true now

theorem SameVisible.exec {s t : State} (h : SameVisible s t) (i : Instr) : SameOutcome (exec i s) (exec i t) := by
  have hadm := admitted_congr h.st h.model i
  cases ha : admitted i s with
  | false =>
    rw [exec_of_not_admitted ha, exec_of_not_admitted (hadm.trans ha)]
    exact h.reject
  | true => exact h.exec_admitted ha (hadm.trans ha)

theorem SameVisible.applyTransfer {s t : State} (h : SameVisible s t) (buffer : List Byte) :
    SameOutcome (applyTransfer buffer s) (applyTransfer buffer t) := by
  obtain ⟨b, hum, temp, rfl⟩ := h.exists_eq
  unfold Machine.applyTransfer
  split
  · exact ⟨rfl, h.frame, h.reading⟩
  · rfl

/-- Settles O48: both states take the same input, and each input gives them the same outcome but for registers that may
not be read. -/
theorem unreadableRegistersAreUnobservable : Obligations.UnreadableRegistersAreUnobservable := by
  intro s t h
  have hport := h.port
  have htake := h.takeInput
  match hp : s.port with
  | [] =>
    simp only [step, hport, hp]
    exact h
  | .reset :: rest =>
    rw [step_reset hp, step_reset (hport.trans hp), htake.rest]
    exact ⟨rfl, fun _ => rfl, fun _ => ⟨rfl, rfl⟩⟩
  | .transfer buffer :: rest =>
    rw [step_transfer hp, step_transfer (hport.trans hp)]
    exact htake.applyTransfer buffer
  | .command cw :: rest =>
    match hd : decode cw with
    | .error why =>
      rw [step_reserved hp hd, step_reserved (hport.trans hp) hd]
      exact htake.reject
    | .ok i =>
      rw [step_command hp hd, step_command (hport.trans hp) hd]
      exact htake.exec i

end Sys2Proof.Machine
end

section
/-! SUPPORT. The sample memory after a transfer of the fixed length: the received buffer, bit 7 of a byte the earliest
sample (R63, R72 of 20_memory.md). -/

namespace Sys2Proof.Machine

/-- Inside the received buffer the byte read is the received one, and no free value (R72). -/
theorem sampleByte_received (s : State) {buffer : List Byte} {j : Nat} (h : j < buffer.length) :
    sampleByte { s with mem := cellsFrom 0 buffer } j = buffer.getD j 0 := by
  have hread : readByte (cellsFrom 0 buffer) j = buffer[j]? := by
    simpa using readByte_cellsFrom 0 buffer j
  simp [sampleByte, hread, h]

/-- Every sample below `N_S` lies in a byte of the sample memory, also where the last byte is not full (log 7). -/
theorem byteOfSample_lt_bufferBytes {c : Params} {a : Nat} (h : a < c.nS) : a / 8 < bufferBytes c := by
  unfold bufferBytes
  omega

/-- The step on a transfer of the fixed length. -/
theorem step_transfer_fixedLength {s : State} {buffer : List Byte} {rest : List Input}
    (hport : s.port = .transfer buffer :: rest) (hlen : buffer.length = bufferBytes s.cfg) :
    step s = .next { s with port := rest, mem := cellsFrom 0 buffer } := by
  rw [step_transfer hport, takeInput_of_port hport]
  exact applyTransfer_next.mpr ⟨hlen, rfl⟩

/-- Settles O38: the step leaves the received buffer as the memory, and each sample below `N_S` lies in a byte of it. -/
theorem transferFillsTheSampleMemory : Obligations.TransferFillsTheSampleMemory := by
  intro s buffer rest hport hlen
  refine ⟨_, step_transfer_fixedLength hport hlen, rfl, fun a ha => ?_⟩
  have hbyte : a / 8 < buffer.length := hlen ▸ byteOfSample_lt_bufferBytes ha
  rw [memRead, sampleByte_received { s with port := rest } hbyte]

end Sys2Proof.Machine
end

section
/-! SUPPORT. The decoder and the encoder are inverse to each other on the words that are not reserved (R80 to R84 of
30_encoding.md), and the opcode map of R83 in masks and patterns says the same. -/

namespace Sys2Proof

/-! ### The decoder answers exactly the well-formed commands -/

theorem decode_commandWord (opc : Byte) (arg : Word) : decode (commandWord opc arg) = decodeFields opc arg := by
  simp [decode]

/-- Format V reads the operand under the zeros above it (R81). -/
theorem formatV_setWidth {n : Nat} (hn : n ≤ 32) (v : BitVec n) (k : BitVec n → Except Reserved Instr) :
    formatV n (v.setWidth 32) k = k v := by
  obtain ⟨hzeros, hback⟩ := setWidth_argument v hn
  rw [formatV, if_pos hzeros, hback]

/-- A well-formed command is read back from its opcode and argument. -/
theorem decodeFields_of_wellFormed {i : Instr} (hwf : i.WellFormed = true) :
    decodeFields (opcode i) (argument i) = .ok i := by
  cases i with
  | clear | check | convert | startE | decodeS | pollL | pollH | clsED | clsSD | clsES | clsSS => rfl
  | setmodel m =>
    calc decodeFields 0x05 (m.setWidth 32) = decodeSetmodel m := formatV_setWidth (by decide) m decodeSetmodel
      _ = .ok (.setmodel m) := decodeSetmodel_eq_ok.mpr ⟨by simpa [Instr.WellFormed] using hwf, rfl⟩
  | rd r =>
    calc decodeFields 0x06 (r.setWidth 32) = decodeRd r := formatV_setWidth (by decide) r decodeRd
      _ = .ok (.rd r) := decodeRd_eq_ok.mpr ⟨hwf, rfl⟩
  | status k => exact formatV_setWidth (by decide) k fun k => .ok (.status k)

/-- An opcode and an argument that decode are those of the command, and the command is well formed. The cases are the
rows of the opcode map R83 in order, and last the opcodes that have no row. -/
theorem wellFormed_of_decodeFields {opc : Byte} {arg : Word} {i : Instr} (h : decodeFields opc arg = .ok i) :
    i.WellFormed = true ∧ opcode i = opc ∧ argument i = arg := by
  unfold decodeFields at h
  split at h <;> rename_i hopc
  case h_15 => cases h
  case h_1 | h_4 | h_5 =>
    obtain ⟨rfl, rfl⟩ := formatZ_eq_ok.mp h
    exact ⟨rfl, BitVec.eq_of_toNat_eq hopc.symm, rfl⟩
  case h_6 =>
    obtain ⟨hzeros, hk⟩ := formatV_eq_ok.mp h
    obtain ⟨hm, rfl⟩ := decodeSetmodel_eq_ok.mp hk
    exact ⟨bne_iff_ne.mpr hm, BitVec.eq_of_toNat_eq hopc.symm, argument_setWidth hzeros⟩
  case h_7 =>
    obtain ⟨hzeros, hk⟩ := formatV_eq_ok.mp h
    obtain ⟨hr, rfl⟩ := decodeRd_eq_ok.mp hk
    exact ⟨hr, BitVec.eq_of_toNat_eq hopc.symm, argument_setWidth hzeros⟩
  case h_8 =>
    obtain ⟨hzeros, hk⟩ := formatV_eq_ok.mp h
    cases hk
    exact ⟨rfl, BitVec.eq_of_toNat_eq hopc.symm, argument_setWidth hzeros⟩
  all_goals
    cases h
    exact ⟨rfl, BitVec.eq_of_toNat_eq hopc.symm, rfl⟩

/-- The decoder, said once: it answers a command exactly on the word of that command, when the command is well
formed. -/
theorem decode_eq_ok {cw : CommandWord} {i : Instr} : decode cw = .ok i ↔ i.WellFormed = true ∧ encode i = cw := by
  constructor
  · intro h
    obtain ⟨hwf, hopc, harg⟩ := wellFormed_of_decodeFields h
    exact ⟨hwf, by rw [encode, hopc, harg, commandWord_fields]⟩
  · rintro ⟨hwf, rfl⟩
    rw [encode, decode_commandWord, decodeFields_of_wellFormed hwf]

/-- Settles O8: the decoder read from the command to its word. -/
theorem decodeReadsBackEveryEncoding : Obligations.DecodeReadsBackEveryEncoding :=
  fun _ hwf => decode_eq_ok.mpr ⟨hwf, rfl⟩

/-- Settles O9: the decoder read from the word to its command. -/
theorem everyDecodedWordIsTheEncoding : Obligations.EveryDecodedWordIsTheEncoding :=
  fun _ _ h => (decode_eq_ok.mp h).symm

/-- Settles O7: five words by their commands' encodings; the two refused words are no command's, so they are
evaluated. -/
theorem writtenOutWordsDecode : Obligations.WrittenOutWordsDecode := by
  refine ⟨?_, ?_, ?_, ?_, ?_, rfl, rfl⟩
  all_goals exact decode_eq_ok.mpr (by decide)

/-! ### The opcode map -/

/-- Each command's word selects the row of its mnemonic (R83). -/
theorem rowOfWord (i : Instr) : Laws.RowOfWord.Statement i := by
  cases i with
  | clear => exact Laws.RowOfWord.clear
  | startE now => exact Laws.RowOfWord.startE now
  | decodeS p0 => exact Laws.RowOfWord.decodeS p0
  | check => exact Laws.RowOfWord.check
  | convert => exact Laws.RowOfWord.convert
  | setmodel m => exact Laws.RowOfWord.setmodel m
  | rd r => exact Laws.RowOfWord.rd r
  | status k => exact Laws.RowOfWord.status k
  | pollL now => exact Laws.RowOfWord.pollL now
  | pollH now => exact Laws.RowOfWord.pollH now
  | clsED d => exact Laws.RowOfWord.clsED d
  | clsSD d => exact Laws.RowOfWord.clsSD d
  | clsES d => exact Laws.RowOfWord.clsES d
  | clsSS d => exact Laws.RowOfWord.clsSS d

/-- A word that decodes selects the row of its command's mnemonic. -/
theorem selects_of_decode {cw : CommandWord} {i : Instr} (h : decode cw = .ok i) :
    ∃ row ∈ opcodeRows, row.mnemonic = mnemonic i ∧ row.selects cw = true := by
  obtain ⟨-, rfl⟩ := decode_eq_ok.mp h
  exact rowOfWord i

/-- Every row tests the whole opcode: a word that selects a row has the opcode of the row's pattern. -/
theorem opcodeOf_of_selects {row : OpcodeRow} (hrow : row ∈ opcodeRows) {cw : CommandWord}
    (h : row.selects cw = true) : opcodeOf cw = opcodeOf row.pattern := by
  have hmask : ∀ x ∈ opcodeRows, opcodeOf x.mask = BitVec.allOnes 8 := by decide
  calc opcodeOf cw = opcodeOf cw &&& opcodeOf row.mask := by rw [hmask row hrow, BitVec.and_allOnes]
    _ = opcodeOf (cw &&& row.mask) := BitVec.extractLsb'_and.symm
    _ = opcodeOf row.pattern := congrArg opcodeOf (beq_iff_eq.mp h)

/-- No two rows have one opcode. -/
theorem opcodeRow_eq_of_opcode :
    ∀ x ∈ opcodeRows, ∀ y ∈ opcodeRows, opcodeOf x.pattern = opcodeOf y.pattern → x = y := by
  decide

/-- Settles O11: two rows that a word selects have its opcode, and so are one row; a word that selects no row cannot
decode. -/
theorem opcodeRowsAreDisjointAndComplete : Obligations.OpcodeRowsAreDisjointAndComplete := by
  refine ⟨fun cw x y hx hy hselx hsely => ?_, fun _ _ => selects_of_decode, fun cw hnone => ?_⟩
  · exact opcodeRow_eq_of_opcode x hx y hy
      ((opcodeOf_of_selects hx hselx).symm.trans (opcodeOf_of_selects hy hsely))
  · cases hdec : decode cw with
    | error why => exact ⟨why, rfl⟩
    | ok i =>
      obtain ⟨row, hrow, -, hsel⟩ := selects_of_decode hdec
      exact absurd hsel (by simp [hnone row hrow])

end Sys2Proof

namespace Sys2Proof.Machine

/-! ### Command words on the port -/

/-- Settles O3. -/
theorem stepRunsTheDecodedCommand : Obligations.StepRunsTheDecodedCommand := by
  intro s cw rest i hport hdec
  refine ⟨(decode_eq_ok.mp hdec).1, ?_⟩
  rw [step_command hport hdec, takeInput_of_port hport]

/-- REJECTED after the oldest input is taken writes the port and the response. -/
theorem reject_takeInput {s : State} {x : Input} {rest : List Input} (hport : s.port = x :: rest) :
    reject (takeInput s) = { s with port := rest, rsp := some (responseWord .rejected s.err 0) } := by
  rw [takeInput_of_port hport]
  rfl

/-- Settles O4. -/
theorem stepRejectsAReservedWord : Obligations.StepRejectsAReservedWord := by
  intro s cw rest why hport hdec
  rw [step_reserved hport hdec, reject_takeInput hport]

/-- The reserved pairs of opcode and argument, clauses (a) to (e) of R84. -/
def ReservedFields (opc arg : Nat) : Prop :=
  (0x08 ≤ opc ∧ opc ≤ 0x0F ∨ 0x12 ≤ opc ∧ opc ≤ 0x1F ∨ 0x24 ≤ opc) ∨
  ((opc = 0x00 ∨ opc = 0x03 ∨ opc = 0x04) ∧ arg ≠ 0) ∨
  ((opc = 0x05 ∨ opc = 0x07) ∧ 4 ≤ arg ∨ opc = 0x06 ∧ 32 ≤ arg) ∨
  (opc = 0x05 ∧ arg = 3) ∨
  (opc = 0x06 ∧ (arg = 6 ∨ arg = 7 ∨ arg = 13 ∨ arg = 14 ∨ arg = 15 ∨ 20 ≤ arg ∧ arg ≤ 31))

/-- No well-formed command has a reserved opcode and argument. -/
theorem not_reservedFields {i : Instr} (hwf : i.WellFormed = true) :
    ¬ ReservedFields (opcode i).toNat (argument i).toNat := by
  unfold ReservedFields
  cases i with
  | clear | check | convert => decide
  | startE | decodeS | pollL | pollH | clsED | clsSD | clsES | clsSS => simp [opcode]
  | setmodel m => revert m; decide
  | rd r => revert r; decide
  | status k => revert k; decide

/-- A word with reserved fields is refused. -/
theorem decode_of_reservedFields {cw : CommandWord} (h : ReservedFields (opcodeOf cw).toNat (argumentOf cw).toNat) :
    ∃ why, decode cw = .error why := by
  cases hdec : decode cw with
  | error why => exact ⟨why, rfl⟩
  | ok i =>
    obtain ⟨hwf, hopc, harg⟩ := wellFormed_of_decodeFields hdec
    exact absurd (hopc ▸ harg ▸ h) (not_reservedFields hwf)

/-- Settles O10: a word with reserved fields is refused, and a refused word is answered REJECTED. -/
theorem reservedEncodingsAreRejected : Obligations.ReservedEncodingsAreRejected := by
  intro s cw rest opc arg hport hres
  obtain ⟨why, hdec⟩ := decode_of_reservedFields hres
  exact stepRejectsAReservedWord s cw rest why hport hdec

end Sys2Proof.Machine
end

section
/-! SUPPORT. Responses: the response word (R85, R88 of 30_encoding.md), the `err` it carries, and REJECTED in `RUN`
(R86). -/

namespace Sys2Proof.Machine

/-! ### The response word -/

/-- Settles O12: the fields are read back, and the codes of `ack` and `err` are injective. -/
theorem responseWordHoldsItsFields : Obligations.ResponseWordHoldsItsFields := by
  refine ⟨fun a e d =>
      ⟨responseAck_responseWord a e d, responseErr_responseWord a e d, responseData_responseWord a e d⟩,
    fun a a' e e' d d' h => ⟨ackCode_injective ?_, errorCode_injective ?_, ?_⟩⟩
  · simpa using congrArg responseAck h
  · simpa using congrArg responseErr h
  · simpa using congrArg responseData h

/-! ### The `err` of a response -/

@[simp] theorem observeEdge_err (now : Word) (s : State) : (observeEdge now s).err = s.err := by
  obtain ⟨_, _, _, _, heq⟩ := observeEdge_rest now s
  rw [heq]

/-- An observed edge answers `None`, and PENDING only before the last edge, which frames (R124, R129 of
41_framer_edge.md). -/
theorem observeEdge_answers (now : Word) {s : State} (hrun : s.st = .run) :
    ∃ a d, (observeEdge now s).rsp = some (responseWord a .none d) ∧
      (a = .pending → (observeEdge now s).st = .run) := by
  rw [observeEdge_rsp, observeEdge_st hrun]
  split
  · exact ⟨.done, _, rfl, nofun⟩
  · exact ⟨.pending, _, rfl, fun _ => rfl⟩

/-- The end of `DECODE.S` is answered with the `ERR` it leaves. -/
theorem finishDecode_rsp_err (c : Capture) (s : State) :
    ∃ d, (finishDecode c s).rsp = some (responseWord .done (finishDecode c s).err d) := by
  rcases finishDecode_cases c s with ⟨-, heq⟩ | ⟨-, heq⟩ <;> exact ⟨_, by rw [heq]⟩

/-- Settles O45: the polls, `CHECK` and `CONVERT` answer the constant `None`, which is `ERR` because their stages hold
no error (R31 d); every other effect answers `ERR` as it leaves it. -/
theorem responseCarriesErr : Obligations.ResponseCarriesErr := by
  intro i s t h hexec
  have hnone (hst : s.st ≠ .failed) : s.err = .none := h.noError hst
  cases effect_of_exec hexec with
  | rejected => exact ⟨.rejected, 0, rfl, nofun⟩
  | answered | cleared | started | timedOut | mismatched | modelSet => exact ⟨.done, _, rfl, nofun⟩
  | accepted hst => exact ⟨.done, 0, by simp [hnone, hst], nofun⟩
  | converted r hst => exact ⟨.done, r.1 ++ r.2, by simp [hnone, hst], nofun⟩
  | decoded p0 =>
    obtain ⟨d, hrsp⟩ := finishDecode_rsp_err (decodeCapture s p0.toNat) s
    exact ⟨.done, d, hrsp, nofun⟩
  | waiting level now hrun =>
    exact ⟨.pending, s.idx.signExtend 32, by simp [hnone, hrun], fun _ => ⟨hrun, level, now, rfl⟩⟩
  | edge level now hrun =>
    obtain ⟨a, d, hrsp, hpending⟩ := observeEdge_answers now hrun
    refine ⟨a, d, ?_, fun ha => ⟨hpending ha, level, now, rfl⟩⟩
    rw [hrsp, observeEdge_err, hnone (by simp [hrun])]

/-! ### In `RUN` -/

/-- In `RUN` a command that is no poll is answered REJECTED (R86, R250 of 70_reset_and_hazards.md). -/
theorem Effect.reject_of_run {s t : State} {i : Instr} (he : Effect s i t) (hrun : s.st = .run)
    (hpoll : ∀ level now, i ≠ pollCommand level now) : t = reject s := by
  cases he with
  | rejected => rfl
  | timedOut level now | waiting level now | edge level now => exact absurd rfl (hpoll level now)
  | answered | cleared | started | decoded | modelSet => contradiction
  | accepted hst | mismatched hst | converted _ hst => simp [hrun] at hst

/-- Settles O51: the inputs a step can take; a command word that is no poll is refused by the decoder or by `RUN`. -/
theorem onlyPollsAndResetActInRun : Obligations.OnlyPollsAndResetActInRun := by
  intro s t hrun hstep
  rcases step_cases hstep with ⟨hport, rfl⟩ | ⟨rest, hport, -⟩ | ⟨buffer, rest, hport, hlen, rfl⟩ |
    ⟨cw, rest, why, hport, hdec, rfl⟩ | ⟨cw, rest, i, hport, hdec, hexec⟩
  · exact .inr (.inr (.inl ⟨hport, rfl⟩))
  · exact .inr (.inl ⟨rest, hport⟩)
  · exact .inr (.inr (.inr (.inl ⟨buffer, rest, hport, hlen, by rw [takeInput_of_port hport]⟩)))
  · exact .inr (.inr (.inr (.inr ⟨cw, rest, hport, by simp [hdec], reject_takeInput hport⟩)))
  · by_cases hpoll : ∃ level now, i = pollCommand level now
    · obtain ⟨level, now, rfl⟩ := hpoll
      exact .inl ⟨cw, rest, level, now, hport, hdec⟩
    · have hno : ∀ level now, i ≠ pollCommand level now := fun level now e => hpoll ⟨level, now, e⟩
      have hreject : t = reject (takeInput s) := (effect_of_exec hexec).reject_of_run hrun hno
      refine .inr (.inr (.inr (.inr ⟨cw, rest, hport, by simpa [hdec] using hno, ?_⟩)))
      rw [hreject, reject_takeInput hport]

end Sys2Proof.Machine
end

section
/-! SUPPORT. The classifier: its three bands (R111, R112 of 40_classifier.md), and the commands that answer them
(R114 to R117). -/

namespace Sys2Proof.Machine

/-! ### The bands -/

/-- A configuration that meets R8 leaves room for `One` in both variants. -/
theorem threshold_lt_ceiling {c : Params} (h : c.Ok) (v : Variant) : threshold c v < ceiling c v := by
  obtain ⟨⟨-, hedge, -⟩, ⟨-, hsampled⟩, -⟩ := h
  cases v with
  | edge => exact hedge
  | sampled => exact hsampled

section
variable {c : Params} {v : Variant} {r : Role} {d : Nat}

theorem classify_eq_timeout : classify c v r d = .timeout ↔ ceiling c v < d := by
  unfold classify
  split
  · simp_all
  · split <;> simp_all

theorem classify_eq_one : classify c v r d = .one ↔ threshold c v < d ∧ d ≤ ceiling c v := by
  unfold classify
  split
  · simp_all
  · split <;> simp_all

/-- A duration up to the threshold is below the ceiling too, by R8. -/
theorem classify_eq_zero (h : c.Ok) : classify c v r d = .zero ↔ d ≤ threshold c v := by
  have hcuts := threshold_lt_ceiling h v
  unfold classify
  split
  · simp only [reduceCtorEq, false_iff]; omega
  · split <;> simp_all

end

/-- Settles O22: the bands one by one; `classify` does not look at its role (R113). -/
theorem classifierCutsAtItsBounds : Obligations.ClassifierCutsAtItsBounds :=
  fun _ _ _ _ hc => ⟨classify_eq_zero hc, classify_eq_one, classify_eq_timeout, rfl⟩

/-- Settles O23: a band bounded above that holds the longer duration leaves only itself and the bands below it for the
shorter one. -/
theorem classifierIsMonotone : Obligations.ClassifierIsMonotone := by
  intro c v r r' d d' hc hle
  have htimeout (h : classify c v r d = .timeout) : classify c v r' d' = .timeout :=
    classify_eq_timeout.mpr ((classify_eq_timeout.mp h).trans_le hle)
  refine ⟨htimeout, ?_⟩
  cases hlonger : classify c v r' d' with
  | timeout => cases classify c v r d <;> decide
  | one =>
    cases hshorter : classify c v r d with
    | zero | one => decide
    | timeout => simp [htimeout hshorter] at hlonger
  | zero =>
    have hshorter : classify c v r d = .zero :=
      (classify_eq_zero hc).mpr (hle.trans ((classify_eq_zero hc).mp hlonger))
    rw [hshorter]

/-! ### The commands -/

/-- The word of the symbol, by the cuts of the variant (R89 of 30_encoding.md). -/
theorem symbolWord_classify (c : Params) (v : Variant) (r : Role) (d : Nat) :
    (symbolCode (classify c v r d)).setWidth 32 =
      if ceiling c v < d then 2#32 else if threshold c v < d then 1#32 else 0#32 := by
  unfold classify
  split
  · rfl
  · split <;> rfl

/-- Outside `RUN` a classification answers its band with DONE and the unchanged `ERR`, and writes only the response. -/
theorem classification_answers {s : State} (h : s.st ≠ .run) (v : Variant) (r : Role) (d : Word) :
    classification v r d s =
      { s with rsp := some (responseWord .done s.err
          (if ceiling s.cfg v < d.toNat then 2#32 else if threshold s.cfg v < d.toNat then 1#32 else 0#32)) } := by
  rw [classification_of_ne_run h, symbolWord_classify]
  rfl

/-- Settles O21: each command is the classification of its variant and role (R114 to R117). -/
theorem classificationAnswersItsBand : Obligations.ClassificationAnswersItsBand := by
  intro s d hst
  have hanswers := fun v r => classification_answers hst v r d
  exact ⟨congrArg _ (hanswers .edge .data), congrArg _ (hanswers .edge .start), congrArg _ (hanswers .sampled .data),
    congrArg _ (hanswers .sampled .start)⟩

end Sys2Proof.Machine
end

section
/-! SUPPORT. The edge-driven framer one command at a time: `START.E` (R122 of 41_framer_edge.md), the age of a phase
(R123), and the poll (R124 to R130). -/

namespace Sys2Proof.Machine

/-! ### START.E -/

/-- Settles O24: `START.E` is admitted in every stage but `RUN` (R34 of 10_state.md). -/
theorem startBeginsADecode : Obligations.StartBeginsADecode :=
  ⟨fun _ => rfl, fun _ now => ⟨fun hst => exec_startE hst now,
    fun hst => exec_of_not_admitted (by simp [admitted, hst])⟩⟩

/-! ### The age of a phase -/

/-- The age is the elapsed time, whether or not the Clock wraps (R123). -/
theorem age_add (t0 d : Word) : age (t0 + d) t0 = d.toNat := by
  rw [age, BitVec.add_comm, BitVec.add_sub_cancel]

/-- The age as the modular difference of two Clock values (R123). -/
theorem age_eq_emod (now t0 : Word) : (age now t0 : Int) = ((now.toNat : Int) - t0.toNat) % 2 ^ 32 := by
  have hnow := now.isLt
  have ht0 := t0.isLt
  rw [age, BitVec.toNat_sub]
  omega

/-- Settles O25: an elapsed time below 2^32 is its own residue. -/
theorem ageToleratesAClockWrap : Obligations.AgeToleratesAClockWrap :=
  ⟨fun t0 n hn => by rw [age_add, BitVec.toNat_ofNat, Nat.mod_eq_of_lt hn], age_eq_emod⟩

/-! ### The poll, guard by guard

R124 tests the age before the level: one equation for each way through the two tests. -/

theorem poll_expired {s : State} {now : Word} (hrun : s.st = .run) (hage : s.cfg.ceilE < age now s.t0) (level : Bool) :
    poll level now s = raiseError .timeout (s.idx.signExtend 32) s := by
  rw [poll, if_neg (not_not_intro hrun), if_pos hage]

theorem poll_waiting {s : State} {now : Word} (hrun : s.st = .run) (hage : age now s.t0 ≤ s.cfg.ceilE) :
    poll (phaseLevel s.idx) now s = respond .pending .none (s.idx.signExtend 32) s := by
  rw [poll, if_neg (not_not_intro hrun), if_neg hage.not_gt, if_pos rfl]

theorem poll_edge {s : State} {now : Word} (hrun : s.st = .run) (hage : age now s.t0 ≤ s.cfg.ceilE) :
    poll (!phaseLevel s.idx) now s = observeEdge now s := by
  rw [poll, if_neg (not_not_intro hrun), if_neg hage.not_gt, if_neg (Bool.not_ne_self _)]

/-- Phase 79, after which the frame is complete (R129), is a data phase. -/
theorem idx_ne_79_of_no_datum {i : BitVec 8} (h : isDataPhase i = false) : i ≠ 79 := by
  rintro rfl
  exact absurd h (by decide)

/-- The edge that ends a framing phase or an even phase writes `IDX` and `T0` (R127). -/
theorem observeEdge_no_datum {s : State} (h : isDataPhase s.idx = false) (now : Word) :
    observeEdge now s =
      { s with
        idx := s.idx + 1, t0 := now, rsp := some (responseWord .pending .none ((s.idx + 1).signExtend 32)) } := by
  rw [observeEdge, if_neg (idx_ne_79_of_no_datum h), shiftPhaseBit, h]
  rfl

/-- Within the ceiling the bit of a pulse is the comparison with the threshold (R111 of 40_classifier.md). -/
theorem classify_edge_isOne {c : Params} {d : Nat} (hd : d ≤ c.ceilE) (r : Role) :
    (classify c .edge r d == .one) = decide (c.thrE < d) := by
  rw [Bool.eq_iff_iff, beq_iff_eq, decide_eq_true_iff, classify_eq_one]
  exact and_iff_left hd

/-- The edge that ends a data phase within the ceiling shifts the bit of its age in; phase 79 frames (R127, R129). -/
theorem observeEdge_datum {s : State} {now : Word} (hrun : s.st = .run) (hage : age now s.t0 ≤ s.cfg.ceilE)
    (h : isDataPhase s.idx = true) :
    observeEdge now s =
      { s with
        b := shiftBit s.b s.nb (decide (s.cfg.thrE < age now s.t0)), nb := s.nb + 1, idx := s.idx + 1, t0 := now,
        st := if s.idx = 79 then .framed else .run,
        rsp := some (if s.idx = 79 then responseWord .done .none 80
          else responseWord .pending .none ((s.idx + 1).signExtend 32)) } := by
  rw [observeEdge, shiftPhaseBit, if_pos h, classify_edge_isOne hage]
  split
  · rfl
  · rw [← hrun]
    rfl

/-! ### The statements about one poll -/

/-- The ceiling test on the modular difference of two Clock values is the test on the age. -/
theorem age_le_iff {now t0 : Word} {c : Nat} : age now t0 ≤ c ↔ ((now.toNat : Int) - t0.toNat) % 2 ^ 32 ≤ c := by
  rw [← age_eq_emod, Int.ofNat_le]

theorem lt_age_iff {now t0 : Word} {c : Nat} :
    c < age now t0 ↔ (c : Int) < ((now.toNat : Int) - t0.toNat) % 2 ^ 32 := by
  rw [← age_eq_emod, Int.ofNat_lt]

/-- Settles O26. -/
theorem pollPastTheCeilingTimesOut : Obligations.PollPastTheCeilingTimesOut := by
  intro s now level hrun hage
  rw [exec_pollCommand, poll_expired hrun (lt_age_iff.mpr hage)]
  rfl

/-- Settles O27: the parity of the phase is the level the phase holds. -/
theorem pollWithoutAnEdgeWritesNothing : Obligations.PollWithoutAnEdgeWritesNothing := by
  intro s now level hrun hage hparity
  have hlevel : level = phaseLevel s.idx := by
    rw [phaseLevel_eq, hparity]
    cases level <;> rfl
  rw [exec_pollCommand, hlevel, poll_waiting hrun (age_le_iff.mpr hage)]
  rfl

/-- Settles O28: the poll observes an edge, and the phase it ends is no data phase. -/
theorem pollTakesAnEdgeThatIsNoDatum : Obligations.PollTakesAnEdgeThatIsNoDatum := by
  intro s now level hrun hage hparity hphase
  have hlevel : level = !phaseLevel s.idx := by
    rw [phaseLevel_eq, hparity]
    cases level <;> rfl
  have hdatum : isDataPhase s.idx = false := by
    rw [isDataPhase_eq, decide_eq_false_iff_not]
    omega
  rw [exec_pollCommand, hlevel, poll_edge hrun (age_le_iff.mpr hage), observeEdge_no_datum hdatum]

/-- Phase 79 by its number. -/
theorem idx_eq_79_iff {i : BitVec 8} : i = 79 ↔ i.toInt = 79 := BitVec.toInt_inj.symm

/-- Settles O29: the new frame is the old one with the bit of the age shifted in at byte `B[NB div 8]`. -/
theorem pollShiftsADataBitIn : Obligations.PollShiftsADataBitIn := by
  intro s now hrun hage hlow _ hodd hnb
  have hage' := age_le_iff.mpr hage
  have hlevel : false = !phaseLevel s.idx := by simp [phaseLevel_eq, hodd]
  have hdatum : isDataPhase s.idx = true := by simp [isDataPhase_eq, hlow, hodd]
  have hbyte : s.nb.toNat / 8 < 5 := by omega
  refine ⟨shiftBit s.b s.nb (decide (s.cfg.thrE < age now s.t0)), ?_, ?_, fun k hk hne => ?_⟩
  · have hexec : exec (.pollL now) s = .next (poll false now s) := exec_pollCommand false now s
    simp only [← idx_eq_79_iff]
    rw [hexec, hlevel, poll_edge hrun hage', observeEdge_datum hrun hage' hdatum]
  · rw [shiftBit, frameByte_shiftIntoByte _ _ _ _ hbyte hbyte, if_pos rfl, shiftIn_toNat]
    simp only [decide_eq_true_eq, lt_age_iff]
  · rw [shiftBit, frameByte_shiftIntoByte _ _ _ _ hbyte hk, if_neg hne]

end Sys2Proof.Machine
end

section
/-! SUPPORT. A decode as a function of its phase durations (R131 of 41_framer_edge.md): the state after `START.E` and
the first phases, kept by each further phase within the ceiling. -/

namespace Sys2Proof.Machine

/-! ### The polls of the `PHASE` lines -/

/-- The command words of the `PHASE` lines of `ds` after the first `k`, the decode begun at time `now` (R97 of
30_encoding.md). -/
def phasesLeft (now : Word) (ds : List Word) (k : Nat) : List Input :=
  (expandPhases (now + (ds.take k).sum) ((k : Int) - 3) (ds.drop k)).map fun c => .command (encode c)

theorem phasesLeft_zero (now : Word) (ds : List Word) :
    phasesLeft now ds 0 = (expandPhases now (-3) ds).map fun c => .command (encode c) := by
  simp [phasesLeft]

theorem phasesLeft_of_length_le (now : Word) {ds : List Word} {k : Nat} (hk : ds.length ≤ k) :
    phasesLeft now ds k = [] := by
  rw [phasesLeft, List.drop_of_length_le hk]
  rfl

theorem phasesLeft_cons (now : Word) {ds : List Word} {k : Nat} (hk : k < ds.length) :
    phasesLeft now ds k =
      .command (encode (phasePoll (now + (ds.take k).sum) ((k : Int) - 3) ds[k])) :: phasesLeft now ds (k + 1) := by
  rw [phasesLeft, phasesLeft, List.drop_eq_getElem_cons hk, List.sum_take_succ _ _ hk, ← BitVec.add_assoc,
    show ((k + 1 : Nat) : Int) - 3 = (k : Int) - 3 + 1 by omega]
  rfl

/-- A `PHASE` line is the poll at the level the phase does not hold (R97 a, R121 of 41_framer_edge.md). -/
theorem phasePoll_eq (t d : Word) (i : BitVec 8) :
    phasePoll t i.toInt d = pollCommand (!phaseLevel i) (t + d) := by
  rw [phasePoll, phaseLevel_eq]
  split <;> simp_all [pollCommand]

/-- A well-formed command on the port is run by the next step. -/
theorem step_encode {s : State} {i : Instr} {rest : List Input} (hwf : i.WellFormed = true)
    (hport : s.port = .command (encode i) :: rest) : step s = exec i { s with port := rest } := by
  rw [step_command hport (decodeReadsBackEveryEncoding i hwf), takeInput_of_port hport]

theorem wellFormed_pollCommand (level : Bool) (now : Word) : (pollCommand level now).WellFormed = true := by
  cases level <;> rfl

/-- A run extended by one step at its end. -/
theorem core_run_snoc {k : Nat} {s t u : State} (hrun : Sys2Proof.core.run k s = .next t) (hstep : step t = .next u) :
    Sys2Proof.core.run (k + 1) s = .next u := by
  rw [core_run_add hrun, core_run_succ hstep]
  rfl

/-! ### The state after some phases -/

/-- Data bit `n` by the duration of phase 2n + 1, which stands at index 2n + 4 of the list (R131). -/
def durationBit (c : Params) (ds : List Word) (n : Nat) : Bool := decide (c.thrE < (ds.getD (2 * n + 4) 0).toNat)

/-- `t` is a state of the decode begun by `START.E now` in `s`, after the first `k` phases of `ds`. -/
structure PhasesTaken (s : State) (now : Word) (ds : List Word) (k : Nat) (t : State) : Prop where
  running : k < 83 → t.st = .run
  complete : k = 83 → t.st = .framed ∧ t.rsp = some (responseWord .done .none 80)
  idx : t.idx.toInt = (k : Int) - 3
  nb : t.nb.toNat = bitsBeforePhase t.idx
  t0 : t.t0 = now + (ds.take k).sum
  held : Held t.b t.nb.toNat (durationBit s.cfg ds)
  frame : t = { s with
    st := t.st, err := .none, idx := t.idx, nb := t.nb, t0 := t.t0, b := t.b, port := t.port, rsp := t.rsp }

/-- `START.E` begins with no phase taken (R122). -/
theorem phasesTaken_start (s : State) (now : Word) (ds : List Word) (p : List Input) :
    PhasesTaken s now ds 0
      { s with
        st := .run, err := .none, idx := -3, nb := 0, b := RawFrame.zero, t0 := now, port := p,
        rsp := some (responseWord .done .none 0) } where
  running := fun _ => rfl
  complete := nofun
  idx := rfl
  nb := rfl
  t0 := by simp
  held := fun n hn => absurd hn (Nat.not_lt_zero n)
  frame := rfl

section
variable {s t : State} {now : Word} {ds : List Word} {rest : List Input} {k : Nat}

/-- No decode writes the configuration. -/
theorem PhasesTaken.cfg (h : PhasesTaken s now ds k t) : t.cfg = s.cfg := by rw [h.frame]

/-- The inputs still to come are no part of the decode. -/
theorem PhasesTaken.withPort (h : PhasesTaken s now ds k t) (p : List Input) :
    PhasesTaken s now ds k { t with port := p } :=
  { h with frame := by rw [h.frame] }

/-- The duration of a data phase decides the bit that this phase shifts in. -/
theorem PhasesTaken.durationBit_nb (h : PhasesTaken s now ds k t) (hk : k < ds.length)
    (hdatum : isDataPhase t.idx = true) :
    durationBit s.cfg ds t.nb.toNat = decide (s.cfg.thrE < ds[k].toNat) := by
  have hindex : 2 * t.nb.toNat + 4 = k := by
    have hidx := h.idx
    rw [isDataPhase_eq, decide_eq_true_eq] at hdatum
    rw [h.nb, bitsBeforePhase]
    omega
  rw [durationBit, hindex, List.getD_eq_getElem _ _ hk]

/-- The bits held after the edge of one more phase within the ceiling (R31 b of 10_state.md, R127). -/
theorem PhasesTaken.bits_observeEdge (h : PhasesTaken s now ds k t) (hk : k < ds.length) (hk83 : k < 83)
    (hd : ds[k].toNat ≤ s.cfg.ceilE) :
    (observeEdge (t.t0 + ds[k]) t).nb.toNat = bitsBeforePhase (t.idx + 1) ∧
      Held (observeEdge (t.t0 + ds[k]) t).b (observeEdge (t.t0 + ds[k]) t).nb.toNat (durationBit s.cfg ds) := by
  have hidx := h.idx
  have hlt : t.nb.toNat < 40 := by rw [h.nb, bitsBeforePhase]; omega
  rw [bitsBeforePhase_succ (by omega) (by omega), ← h.nb]
  cases hdatum : isDataPhase t.idx with
  | false =>
    rw [observeEdge_no_datum hdatum]
    exact ⟨rfl, h.held⟩
  | true =>
    have hage : age (t.t0 + ds[k]) t.t0 ≤ t.cfg.ceilE := by rwa [age_add, h.cfg]
    have hnb : (t.nb + 1).toNat = t.nb.toNat + 1 := by
      rw [BitVec.toNat_add, show (1 : BitVec 6).toNat = 1 by decide]
      omega
    rw [observeEdge_datum (h.running hk83) hage hdatum, age_add, h.cfg, ← h.durationBit_nb hk hdatum]
    exact ⟨hnb, hnb ▸ held_shiftBit hlt h.held⟩

/-- The edge of a phase within the ceiling takes that phase (R124), and the one of the last phase frames (R129). -/
theorem PhasesTaken.observeEdge (h : PhasesTaken s now ds k t) (hk : k < ds.length) (hk83 : k < 83)
    (hd : ds[k].toNat ≤ s.cfg.ceilE) : PhasesTaken s now ds (k + 1) (observeEdge (t.t0 + ds[k]) t) := by
  have hidx := h.idx
  have hsucc : (t.idx + 1).toInt = t.idx.toInt + 1 := toInt_succ (by omega) (by omega)
  have hlast : t.idx = 79 ↔ k + 1 = 83 := by rw [idx_eq_79_iff]; omega
  obtain ⟨hnb, hheld⟩ := h.bits_observeEdge hk hk83 hd
  have hst := observeEdge_st (now := t.t0 + ds[k]) (h.running hk83)
  have hrsp := observeEdge_rsp (t.t0 + ds[k]) t
  simp only [hlast] at hst hrsp
  obtain ⟨st, b, nb, rsp, hedge⟩ := observeEdge_rest (t.t0 + ds[k]) t
  rw [hedge] at hnb hheld hst hrsp ⊢
  exact
    { running := fun hlt => hst.trans (if_neg (by omega))
      complete := fun heq => ⟨hst.trans (if_pos heq), hrsp.trans (by rw [if_pos heq])⟩
      idx := by simp only [hsucc]; omega
      nb := hnb
      t0 := by simp only [h.t0, List.sum_take_succ _ _ hk, BitVec.add_assoc]
      held := hheld
      frame := by rw [h.frame] }

/-- The step that takes the poll of the next `PHASE` line. -/
theorem PhasesTaken.step_eq (h : PhasesTaken s now ds k t) (hport : t.port = phasesLeft now ds k ++ rest)
    (hk : k < ds.length) :
    step t = .next (poll (!phaseLevel t.idx) (t.t0 + ds[k]) { t with port := phasesLeft now ds (k + 1) ++ rest }) := by
  rw [← exec_pollCommand]
  refine step_encode (wellFormed_pollCommand _ _) ?_
  rw [hport, phasesLeft_cons now hk, ← h.t0, ← h.idx, phasePoll_eq, List.cons_append]

/-- The run of `START.E` and `k` phases within the ceiling. -/
theorem run_phases (hst : s.st ≠ .run)
    (hport : s.port = .command (encode (.startE now)) :: (phasesLeft now ds 0 ++ rest)) (hk : k ≤ ds.length)
    (hk83 : k ≤ 83) (hd : ∀ x ∈ ds.take k, x.toNat ≤ s.cfg.ceilE) :
    ∃ t, Sys2Proof.core.run (k + 1) s = .next t ∧ PhasesTaken s now ds k t ∧ t.port = phasesLeft now ds k ++ rest := by
  induction k with
  | zero =>
    have hstart := exec_startE (s := { s with port := phasesLeft now ds 0 ++ rest }) hst now
    exact ⟨_, core_run_succ ((step_encode rfl hport).trans hstart), phasesTaken_start s now ds _, rfl⟩
  | succ k ih =>
    rw [List.take_succ_eq_append_getElem hk, List.forall_mem_append, List.forall_mem_singleton] at hd
    obtain ⟨hearlier, hlast⟩ := hd
    obtain ⟨t, hrun, h, hleft⟩ := ih (by omega) (by omega) hearlier
    have h' := h.withPort (phasesLeft now ds (k + 1) ++ rest)
    have hstep := (h.step_eq hleft hk).trans
      (congrArg _ (poll_edge (h'.running hk83) (by rwa [age_add, h'.cfg])))
    exact ⟨_, core_run_snoc hrun hstep, h'.observeEdge hk hk83 hlast, (sameOutside_observeEdge _ _).port⟩

end

/-! ### The statements about runs -/

/-- Settles O31: all 83 phases are taken, and forty bits held are the data bits of the frame (R91 of 30_encoding.md). -/
theorem phaseDurationsDecideTheFrame : Obligations.PhaseDurationsDecideTheFrame := by
  intro s now ds hst hlen hport hd
  have htake : ds.take 83 = ds := List.take_of_length_le hlen.le
  obtain ⟨t, hrun, h, hleft⟩ := run_phases (rest := []) (k := 83) hst
    (by rw [hport, phasesLeft_zero, List.append_nil]; rfl) hlen.ge le_rfl (by rwa [htake])
  obtain ⟨hframed, hrsp⟩ := h.complete rfl
  have hidx : t.idx = 80 := BitVec.toInt_inj.mp h.idx
  have hnb : t.nb = 40 := BitVec.eq_of_toNat_eq (by rw [h.nb, hidx]; decide)
  have ht0 : t.t0 = now + ds.sum := by rw [h.t0, htake]
  have hempty : t.port = [] := by rw [hleft, phasesLeft_of_length_le now hlen.le, List.append_nil]
  have hframe := h.frame
  have hheld := h.held
  rw [hframed, hrsp, hidx, hnb, ht0, hempty] at hframe
  rw [hnb] at hheld
  exact ⟨t, hrun, hframe, frameBit_of_held hheld⟩

/-- Settles O32: the phases before the long one are taken, and the poll of the long one raises `Timeout`. -/
theorem firstLongPhaseTimesOut : Obligations.FirstLongPhaseTimesOut := by
  intro s now ds more d rest hst hlen hport hds hd
  have hk : ds.length < (ds ++ d :: more).length := by simp
  obtain ⟨t, hrun, h, hleft⟩ := run_phases (k := ds.length) hst (by rw [hport, phasesLeft_zero]; rfl) hk.le hlen.le
    (by simpa using hds)
  have h' := h.withPort (phasesLeft now (ds ++ d :: more) (ds.length + 1) ++ rest)
  have hstep := (h.step_eq hleft hk).trans
    (congrArg _ (poll_expired (h'.running hlen) (by simpa [age_add, h.cfg] using hd) _))
  obtain ⟨hmodel, hhum, htemp, hmem⟩ : t.model = s.model ∧ t.hum10 = s.hum10 ∧ t.temp10 = s.temp10 ∧ t.mem = s.mem := by
    rw [h.frame]
    exact ⟨rfl, rfl, rfl, rfl⟩
  exact ⟨_, core_run_snoc hrun hstep, rfl, rfl, h.idx, h.nb, rfl, hmodel, hhum, htemp, hmem, h.cfg⟩

end Sys2Proof.Machine
end

section
/-! SUPPORT. `DECODE.S` as a function of the runs of the sample memory (R141 to R146 of 42_framer_sampled.md): where
`nextRun` stops, the four framing runs, and the bits held after each further plausible data run. -/

namespace Sys2Proof.Machine

/-! ### One run -/

section
variable {s : State} {p q : Nat}

/-- Past the end of the memory both sides are false. -/
theorem nextRun_eq_some : nextRun s p = some q ↔ RunEnds s p q := by
  rw [nextRun, scanRun_eq_some, RunEnds]
  constructor
  · rintro ⟨hpq, hq, hlevel, hedge⟩
    refine ⟨hpq, by omega, fun a ha haq => ?_, hedge⟩
    obtain rfl | hpa := Nat.eq_or_lt_of_le ha
    · rfl
    · exact hlevel a hpa haq
  · rintro ⟨hpq, hq, hlevel, hedge⟩
    exact ⟨hpq, by omega, fun a ha haq => hlevel a (Nat.le_of_succ_le ha) haq, hedge⟩

/-- Past the end of the memory both sides are true. -/
theorem nextRun_eq_none : nextRun s p = none ↔ NoEnd s p := by
  rw [nextRun, scanRun_eq_none, NoEnd]
  constructor
  · intro hlevel a ha hns
    obtain rfl | hpa := Nat.eq_or_lt_of_le ha
    · rfl
    · exact hlevel a hpa (by omega)
  · intro hlevel a ha hns
    exact hlevel a (Nat.le_of_succ_le ha) (by omega)

end

/-- Settles O33: the answers of the scan, the sample at p itself included. -/
theorem nextRunFindsTheEndOfTheRun : Obligations.NextRunFindsTheEndOfTheRun :=
  fun _ _ _ => ⟨fun _ => nextRun_eq_some, nextRun_eq_none⟩

/-! ### The framing runs -/

section
variable {s : State} {e : Nat → Nat} {n : Nat}

/-- The first runs of a capture. -/
theorem RunsFrom.of_le (h : RunsFrom s e n) {k : Nat} (hk : k ≤ n) : RunsFrom s e k :=
  ⟨h.1, fun j hj => h.2 j (hj.trans_le hk)⟩

theorem RunsFrom.runEnds (h : RunsFrom s e n) {j : Nat} (hj : j < n) : RunEnds s (e j) (e (j + 1)) := h.2 j hj

theorem skipRuns_add (s : State) (m n p : Nat) : skipRuns s (m + n) p = (skipRuns s m p).bind (skipRuns s n) := by
  induction m generalizing p with
  | zero => rw [Nat.zero_add]; rfl
  | succ m ih =>
    rw [Nat.succ_add, skipRuns, skipRuns, Option.bind_assoc]
    exact congrArg _ (funext ih)

theorem skipRuns_of_noEnd {p : Nat} (h : NoEnd s p) (n : Nat) : skipRuns s (n + 1) p = none := by
  rw [skipRuns, nextRun_eq_none.mpr h]
  rfl

/-- Closed runs are passed over one by one. -/
theorem RunsFrom.skipRuns (h : RunsFrom s e n) : skipRuns s n (e 0) = some (e n) := by
  induction n with
  | zero => rfl
  | succ n ih =>
    rw [skipRuns_add, ih (h.of_le n.le_succ), Option.bind_some, Machine.skipRuns,
      nextRun_eq_some.mpr (h.runEnds n.lt_succ_self)]
    rfl

/-- A scan from outside the memory leaves no data bit (R146 a). -/
theorem decodeCapture_of_outside {p0 : Nat} (h : s.cfg.nS ≤ p0) :
    decodeCapture s p0 = ⟨RawFrame.zero, 0, false⟩ :=
  if_neg h.not_gt

/-- A framing run without an end leaves no data bit (R146 b). -/
theorem RunsFrom.decodeCapture_of_noEnd (h : RunsFrom s e n) (hn : n < 4) (hend : NoEnd s (e n)) :
    decodeCapture s (e 0) = ⟨RawFrame.zero, 0, false⟩ := by
  have hskip : Machine.skipRuns s 4 (e 0) = none := by
    rw [show 4 = n + (3 - n + 1) by omega, skipRuns_add, h.skipRuns]
    exact skipRuns_of_noEnd hend _
  rw [decodeCapture, if_pos h.1, hskip]

/-- After the framing runs the data bits begin (R143, R145). -/
theorem RunsFrom.decodeCapture (h : RunsFrom s e 4) :
    decodeCapture s (e 0) = decodeBits s 40 (e 4) RawFrame.zero 0 := by
  rw [Machine.decodeCapture, if_pos h.1, h.skipRuns]

end

/-! ### One data bit -/

section
variable {s : State} {p q : Nat} {frame : RawFrame} {nb : BitVec 6}

/-- The bit start has no end (R146 c). -/
theorem decodeBits_of_noEnd_bitStart (n : Nat) (hp : NoEnd s p) :
    decodeBits s (n + 1) p frame nb = ⟨frame, nb, false⟩ := by
  rw [decodeBits, nextRun_eq_none.mpr hp]

/-- The measured run has no end (R146 c). -/
theorem decodeBits_of_noEnd_dataRun (n : Nat) (hp : RunEnds s p q) (hq : NoEnd s q) :
    decodeBits s (n + 1) p frame nb = ⟨frame, nb, false⟩ := by
  simp only [decodeBits, nextRun_eq_some.mpr hp, nextRun_eq_none.mpr hq]

theorem plausible_iff {c : Params} {d : Nat} : plausible c d = true ↔ c.minS ≤ d ∧ d ≤ c.ceilS := by
  rw [plausible, Bool.and_eq_true, decide_eq_true_iff, decide_eq_true_iff]

/-- The bit of a plausible run is the comparison with the threshold (R111 of 40_classifier.md). -/
theorem classify_sampled_isOne {c : Params} {d : Nat} (hd : d ≤ c.ceilS) (r : Role) :
    (classify c .sampled r d == .one) = decide (c.thrS < d) := by
  rw [Bool.eq_iff_iff, beq_iff_eq, decide_eq_true_iff, classify_eq_one]
  exact and_iff_left hd

end

/-! ### The bits after some plausible data runs -/

/-- Data bit `n` by the duration of measured run `n` (R144, R145). -/
def dataRunBit (c : Params) (e : Nat → Nat) (n : Nat) : Bool := decide (c.thrS < dataRunDuration c e n)

/-- The measured run of each of the first `k` data bits is plausible (R144). -/
def PlausibleRuns (c : Params) (e : Nat → Nat) (k : Nat) : Prop :=
  ∀ n < k, c.minS ≤ dataRunDuration c e n ∧ dataRunDuration c e n ≤ c.ceilS

section
variable {s : State} {e : Nat → Nat} {k : Nat}

/-- The two runs of data bit `n`. -/
theorem RunsFrom.runEnds_bit {n : Nat} (h : RunsFrom s e (6 + 2 * n)) :
    RunEnds s (e (4 + 2 * n)) (e (5 + 2 * n)) ∧ RunEnds s (e (5 + 2 * n)) (e (6 + 2 * n)) := by
  have hstart := h.runEnds (j := 4 + 2 * n) (by omega)
  have hdata := h.runEnds (j := 5 + 2 * n) (by omega)
  rw [show 4 + 2 * n + 1 = 5 + 2 * n by omega] at hstart
  rw [show 5 + 2 * n + 1 = 6 + 2 * n by omega] at hdata
  exact ⟨hstart, hdata⟩

/-- Both runs of data bit `n` are closed: the measured one decides (R144). -/
theorem RunsFrom.decodeBits_bit {n : Nat} (h : RunsFrom s e (6 + 2 * n)) (left : Nat) (frame : RawFrame)
    (nb : BitVec 6) :
    decodeBits s (left + 1) (e (4 + 2 * n)) frame nb =
      if plausible s.cfg (dataRunDuration s.cfg e n) then
        decodeBits s left (e (6 + 2 * n))
          (shiftBit frame nb (classify s.cfg .sampled .data (dataRunDuration s.cfg e n) == .one)) (nb + 1)
      else ⟨frame, nb, false⟩ := by
  obtain ⟨hstart, hdata⟩ := h.runEnds_bit
  simp only [decodeBits, nextRun_eq_some.mpr hstart, nextRun_eq_some.mpr hdata]
  rfl

/-- After the framing runs and `k` plausible data runs, `k` bits are held and the scan stands at the start of bit `k`:
each further plausible run shifts its bit in. -/
theorem RunsFrom.decodeCapture_of_plausibleRuns (h : RunsFrom s e (4 + 2 * k)) (hk : k ≤ 40)
    (hplausible : PlausibleRuns s.cfg e k) :
    ∃ f, Held f k (dataRunBit s.cfg e) ∧
      Machine.decodeCapture s (e 0) = decodeBits s (40 - k) (e (4 + 2 * k)) f (BitVec.ofNat 6 k) := by
  induction k with
  | zero => exact ⟨RawFrame.zero, fun n hn => absurd hn n.not_lt_zero, h.decodeCapture⟩
  | succ k ih =>
    obtain ⟨f, hheld, hcapture⟩ := ih (h.of_le (by omega)) (by omega) fun n hn => hplausible n (by omega)
    have hbit := hplausible k k.lt_succ_self
    have hnb : (BitVec.ofNat 6 k).toNat = k := by rw [BitVec.toNat_ofNat]; omega
    have hshift := held_shiftBit (nb := BitVec.ofNat 6 k) (by rw [hnb]; omega) (hnb.symm ▸ hheld)
    rw [hnb] at hshift
    rw [show 4 + 2 * (k + 1) = 6 + 2 * k by omega] at h ⊢
    refine ⟨_, hshift, ?_⟩
    rw [hcapture, show 40 - k = 40 - (k + 1) + 1 by omega, h.decodeBits_bit, if_pos (plausible_iff.mpr hbit),
      classify_sampled_isOne hbit.2, BitVec.ofNat_add]
    rfl

end

/-! ### The statements about DECODE.S -/

section
variable {s : State} {p0 : Word} {f : RawFrame}

/-- A complete scan frames (R145). -/
theorem exec_decodeS_complete (hst : s.st ≠ .run) {nb : BitVec 6} (h : decodeCapture s p0.toNat = ⟨f, nb, true⟩) :
    exec (.decodeS p0) s =
      .next { s with st := .framed, err := .none, nb := nb, b := f, rsp := some (responseWord .done .none 40) } := by
  rw [exec_decodeS hst, h]
  rfl

/-- A scan that stops raises `Timeout` with the count of its bits (R146). -/
theorem exec_decodeS_stopped (hst : s.st ≠ .run) {n : Nat} (hn : n < 64)
    (h : decodeCapture s p0.toNat = ⟨f, BitVec.ofNat 6 n, false⟩) :
    exec (.decodeS p0) s =
      .next { s with
        st := .failed, err := .timeout, nb := BitVec.ofNat 6 n, b := f,
        rsp := some (responseWord .done .timeout (BitVec.ofNat 32 n)) } := by
  have hcount : (BitVec.ofNat 6 n).setWidth 32 = BitVec.ofNat 32 n := by
    apply BitVec.eq_of_toNat_eq
    rw [BitVec.toNat_setWidth, BitVec.toNat_ofNat, BitVec.toNat_ofNat]
    omega
  rw [exec_decodeS hst, h, ← hcount]
  rfl

end

/-- Settles O34: all forty data runs are taken, and a frame is its forty data bits (R91 of 30_encoding.md). -/
theorem decodeOfACompleteCaptureFrames : Obligations.DecodeOfACompleteCaptureFrames := by
  intro s p0 e f hst hp0 hruns hplausible hbits
  obtain ⟨f', hheld, hcapture⟩ := RunsFrom.decodeCapture_of_plausibleRuns (k := 40) hruns le_rfl hplausible
  have hframe : f' = f := frame_eq_of_bits fun n hn => (frameBit_of_held hheld n hn).trans (hbits n hn).symm
  rw [hp0, hframe] at hcapture
  exact exec_decodeS_complete hst hcapture

/-- Settles O35: in both cases the scan stops before the first data bit. -/
theorem decodeWithoutFramingRunsTimesOut : Obligations.DecodeWithoutFramingRunsTimesOut := by
  intro s p0 hst hstop
  refine exec_decodeS_stopped hst (n := 0) (by decide) ?_
  obtain houtside | ⟨e, n, hn, hp0, hruns, hend⟩ := hstop
  · exact decodeCapture_of_outside houtside
  · rw [← hp0]
    exact hruns.decodeCapture_of_noEnd hn hend

/-- Settles O36: the scan stands at the start of bit n, and stops there in each of the three cases. -/
theorem decodeOfABadDataRunTimesOut : Obligations.DecodeOfABadDataRunTimesOut := by
  intro s p0 e n hst hn hp0 hruns hplausible hbad
  obtain ⟨f, -, hcapture⟩ := hruns.decodeCapture_of_plausibleRuns hn.le hplausible
  refine ⟨f, exec_decodeS_stopped hst (by omega) ?_⟩
  rw [← hp0, hcapture, show 40 - n = 39 - n + 1 by omega]
  obtain hend | ⟨hlonger, hend⟩ | ⟨hlonger, hduration⟩ := hbad
  · exact decodeBits_of_noEnd_bitStart _ hend
  · rw [show 5 + 2 * n = 4 + 2 * n + 1 by omega] at hlonger hend
    exact decodeBits_of_noEnd_dataRun _ (hlonger.runEnds (Nat.lt_succ_self _)) hend
  · rw [hlonger.decodeBits_bit, if_neg]
    rw [plausible_iff]
    omega

end Sys2Proof.Machine
end

section
/-! SUPPORT. The sampled round trip (R148 of 42_framer_sampled.md): the synthetic capture of a frame as its run lengths,
and the runs of a memory that begins with it. -/

namespace Sys2Proof.Machine

/-! ### Samples by run lengths -/

/-- Samples by the lengths of their runs, the first at `level` and each at the other level than the one before. -/
def samplesOfRuns (level : Bool) : List Nat → List Bool
  | [] => []
  | len :: rest => List.replicate len level ++ samplesOfRuns (!level) rest

/-- Where run `j` begins. -/
def runStart (lens : List Nat) (j : Nat) : Nat := (lens.take j).sum

section
variable {lens : List Nat} {j : Nat}

theorem runStart_zero (lens : List Nat) : runStart lens 0 = 0 := rfl

theorem runStart_succ (hj : j < lens.length) : runStart lens (j + 1) = runStart lens j + lens[j] :=
  List.sum_take_succ _ _ hj

theorem runStart_lt_succ (hpos : ∀ x ∈ lens, 0 < x) (hj : j < lens.length) :
    runStart lens j < runStart lens (j + 1) := by
  have hlen := hpos _ (List.getElem_mem hj)
  rw [runStart_succ hj]
  omega

theorem length_samplesOfRuns (level : Bool) (lens : List Nat) : (samplesOfRuns level lens).length = lens.sum := by
  induction lens generalizing level with
  | nil => rfl
  | cons len rest ih => simp [samplesOfRuns, ih]

theorem runStart_le_length (level : Bool) (lens : List Nat) (j : Nat) :
    runStart lens j ≤ (samplesOfRuns level lens).length := by
  rw [length_samplesOfRuns, ← List.sum_take_add_sum_drop lens j]
  exact Nat.le_add_right _ _

/-- Inside run `j` every sample has the level of that run, `j` inversions of the first one. -/
theorem getD_samplesOfRuns (level : Bool) {a : Nat} (hj : j < lens.length) (hlo : runStart lens j ≤ a)
    (hhi : a < runStart lens (j + 1)) : (samplesOfRuns level lens).getD a false = Bool.not^[j] level := by
  induction lens generalizing level j a with
  | nil => exact absurd hj j.not_lt_zero
  | cons len rest ih =>
    rw [samplesOfRuns]
    cases j with
    | zero =>
      have ha : a < len := by simpa [runStart] using hhi
      rw [List.getD_append _ _ _ _ (by simpa using ha)]
      exact List.getD_replicate _ ha
    | succ j =>
      simp only [runStart, List.take_succ_cons, List.sum_cons] at hlo hhi
      have hlen : (List.replicate len level).length ≤ a := by rw [List.length_replicate]; omega
      rw [List.getD_append_right _ _ _ _ hlen, List.length_replicate, Function.iterate_succ_apply]
      exact ih (!level) (Nat.lt_of_succ_lt_succ hj) (by unfold runStart; omega) (by unfold runStart; omega)

/-- A memory that begins with the samples of positive run lengths has these runs; each but the last is closed by the
next one. -/
theorem runsFrom_runStart {s : State} {level : Bool} (hpos : ∀ x ∈ lens, 0 < x) (hj : j < lens.length)
    (hfit : (samplesOfRuns level lens).length ≤ s.cfg.nS)
    (hmem : ∀ a < (samplesOfRuns level lens).length, memRead s a = (samplesOfRuns level lens).getD a false) :
    RunsFrom s (runStart lens) j := by
  have hsample (i : Nat) (hi : i < lens.length) (a : Nat) (hlo : runStart lens i ≤ a)
      (hhi : a < runStart lens (i + 1)) : a < s.cfg.nS ∧ memRead s a = Bool.not^[i] level := by
    have ha := hhi.trans_le (runStart_le_length level lens (i + 1))
    exact ⟨ha.trans_le hfit, (hmem a ha).trans (getD_samplesOfRuns level hi hlo hhi)⟩
  have hfirst (i : Nat) (hi : i < lens.length) := hsample i hi _ le_rfl (runStart_lt_succ hpos hi)
  refine ⟨(hfirst 0 (by omega)).1, fun i hi => ?_⟩
  have hlevel := (hfirst i (by omega)).2
  obtain ⟨hinside, hnext⟩ := hfirst (i + 1) (by omega)
  refine ⟨runStart_lt_succ hpos (by omega), hinside, fun a hlo hhi => ?_, ?_⟩
  · exact (hsample i (by omega) a hlo hhi).2.trans hlevel.symm
  · rw [hnext, hlevel, Function.iterate_succ_apply']
    exact Bool.not_ne_self _

end

/-! ### The run lengths of the synthetic capture -/

/-- The length of the high run of data bit `n` (R148). -/
def highLength (f : RawFrame) (r : RunLengths) (n : Nat) : Nat := if frameBit f n then r.oneRun else r.zeroRun

/-- The run lengths of the data bits from bit `n` on: a bit start and a high run each (R148). -/
def bitLengths (f : RawFrame) (r : RunLengths) (n : Nat) : List Nat → List Nat
  | [] => []
  | low :: rest => low :: highLength f r n :: bitLengths f r (n + 1) rest

/-- The run lengths of `enc(F, r)` (R148). -/
def captureLengths (f : RawFrame) (r : RunLengths) : List Nat :=
  [r.requestLow, r.requestHigh, r.initLow, r.initHigh] ++ (bitLengths f r 0 r.bitStart ++ [r.closing])

section
variable (f : RawFrame) (r : RunLengths)

theorem encodeBits_eq_samplesOfRuns (n : Nat) (starts : List Nat) :
    encodeBits f r.zeroRun r.oneRun n starts ++ List.replicate r.closing false =
      samplesOfRuns false (bitLengths f r n starts ++ [r.closing]) := by
  induction starts generalizing n with
  | nil => simp [encodeBits, bitLengths, samplesOfRuns]
  | cons low rest ih => simp [encodeBits, bitLengths, samplesOfRuns, highLength, ← ih]

theorem encodeFrame_eq_samplesOfRuns : encodeFrame f r = samplesOfRuns false (captureLengths f r) := by
  simp [encodeFrame, captureLengths, samplesOfRuns, ← encodeBits_eq_samplesOfRuns]

theorem length_bitLengths (n : Nat) (starts : List Nat) : (bitLengths f r n starts).length = 2 * starts.length := by
  induction starts generalizing n with
  | nil => rfl
  | cons low rest ih =>
    simp only [bitLengths, List.length_cons, ih]
    omega

theorem length_captureLengths : (captureLengths f r).length = 5 + 2 * r.bitStart.length := by
  simp only [captureLengths, List.length_append, List.length_cons, List.length_nil, length_bitLengths]
  omega

/-- The high run of each bit follows its bit start. -/
theorem bitLengths_high {starts : List Nat} (n m : Nat) (hm : m < starts.length) :
    (bitLengths f r n starts)[2 * m + 1]? = some (highLength f r (n + m)) := by
  induction starts generalizing n m with
  | nil => exact absurd hm m.not_lt_zero
  | cons low rest ih =>
    cases m with
    | zero => rfl
    | succ m =>
      rw [show n + (m + 1) = n + 1 + m by omega]
      exact ih (n + 1) m (Nat.lt_of_succ_lt_succ hm)

/-- Run `5 + 2n` is the high run of data bit `n` (R93 of 30_encoding.md). -/
theorem captureLengths_high {n : Nat} (hn : n < r.bitStart.length) :
    (captureLengths f r)[5 + 2 * n]? = some (highLength f r n) := by
  have hindex : 2 * n + 1 < (bitLengths f r 0 r.bitStart).length := by rw [length_bitLengths]; omega
  have hhigh := bitLengths_high f r 0 n hn
  rw [Nat.zero_add] at hhigh
  rw [show 5 + 2 * n = 2 * n + 1 + 4 by omega]
  exact (List.getElem?_append_left hindex).trans hhigh

/-- Positive run lengths make a capture of positive run lengths. -/
theorem bitLengths_pos {starts : List Nat} (hstarts : ∀ x ∈ starts, 0 < x) (hzero : 0 < r.zeroRun)
    (hone : 0 < r.oneRun) (n : Nat) : ∀ x ∈ bitLengths f r n starts, 0 < x := by
  induction starts generalizing n with
  | nil => nofun
  | cons low rest ih =>
    obtain ⟨hlow, hrest⟩ := List.forall_mem_cons.mp hstarts
    have hhigh : 0 < highLength f r n := by unfold highLength; split <;> assumption
    exact List.forall_mem_cons.mpr ⟨hlow, List.forall_mem_cons.mpr ⟨hhigh, ih hrest (n + 1)⟩⟩

/-- The duration of measured run `n` is that of the high run of data bit `n`. -/
theorem dataRunDuration_captureLengths (c : Params) {n : Nat} (hn : n < r.bitStart.length) :
    dataRunDuration c (runStart (captureLengths f r)) n = highLength f r n * 1000000 / c.fS := by
  obtain ⟨hindex, hlen⟩ := List.getElem?_eq_some_iff.mp (captureLengths_high f r hn)
  have hnext := runStart_succ hindex
  rw [hlen, show 5 + 2 * n + 1 = 6 + 2 * n by omega] at hnext
  rw [dataRunDuration, hnext, Nat.add_sub_cancel_left]

end

/-- Settles O37: the capture's run lengths are those of its 84 closed runs, each high run is plausible and longer than
the threshold exactly for a 1, so the capture is the complete one of the frame. -/
theorem sampledRoundTrip : Obligations.SampledRoundTrip := by
  intro s f r hst _ hrequestLow hrequestHigh hinitLow hinitHigh hclosing hlen hstarts hzero hmin hzeroThr hthrOne hceil
    hfit hmem
  have hone : 0 < r.oneRun := Nat.pos_of_ne_zero fun h => by simp [h] at hthrOne
  have hpos : ∀ x ∈ captureLengths f r, 0 < x := by
    simp only [captureLengths, List.forall_mem_append, List.forall_mem_cons]
    exact ⟨⟨hrequestLow, hrequestHigh, hinitLow, hinitHigh, nofun⟩, bitLengths_pos f r hstarts hzero hone 0,
      hclosing, nofun⟩
  have hruns : RunsFrom s (runStart (captureLengths f r)) 84 := by
    rw [encodeFrame_eq_samplesOfRuns] at hfit hmem
    exact runsFrom_runStart hpos (by rw [length_captureLengths, hlen]; decide) hfit hmem
  have hduration (n : Nat) (hn : n < 40) := dataRunDuration_captureLengths f r s.cfg (hlen.symm ▸ hn)
  refine decodeOfACompleteCaptureFrames s 0 (runStart (captureLengths f r)) f hst (runStart_zero _) hruns ?_ ?_
  · intro n hn
    rw [hduration n hn, highLength]
    split <;> omega
  · intro n hn
    rw [hduration n hn, highLength]
    cases frameBit f n with
    | true => exact (decide_eq_true hthrOne).symm
    | false => exact (decide_eq_false hzeroThr.not_gt).symm

end Sys2Proof.Machine
end

section
/-! SUPPORT. The checksum validator: `CHECK` (R160 to R162 of 43_checksum.md). -/

namespace Sys2Proof.Machine

/-! ### The two ends of CHECK in FRAMED -/

section
variable {s : State}

/-- A valid frame is accepted (R161). -/
theorem exec_check_valid (hst : s.st = .framed) (hvalid : checksumHolds s.b = true) :
    exec .check s = .next { s with st := .accepted, rsp := some (responseWord .done .none 0) } := by
  rw [exec_check hst, if_pos hvalid]
  rfl

/-- A frame that is not valid goes to the error entry of R216 (R161, R212). -/
theorem exec_check_invalid (hst : s.st = .framed) (hinvalid : ¬ checksumHolds s.b = true) :
    exec .check s =
      .next { s with
        st := .failed, err := .checksumMismatch, rsp := some (responseWord .done .checksumMismatch 0) } := by
  rw [exec_check hst, if_neg hinvalid]
  rfl

end

/-! ### The statements about CHECK -/

/-- Settles O40: the sum decides between the two ends of `CHECK`, and no other stage admits it (R34 of 10_state.md). -/
theorem checkComparesTheSum : Obligations.CheckComparesTheSum := by
  refine ⟨rfl, fun s => ⟨fun hst hsum => ?_, fun hst hsum => ?_, fun hst => ?_⟩⟩
  · exact exec_check_valid hst ((checksumHolds_iff s.b).mpr hsum)
  · exact exec_check_invalid hst (mt (checksumHolds_iff s.b).mp hsum)
  · exact exec_of_not_admitted (by simpa [admitted] using hst)

/-- The checksum does not read the fifth byte, so it names the one fifth byte that makes the frame valid (R162). -/
theorem checksumHolds_iff_eq_sum (b0 b1 b2 b3 x : Byte) :
    checksumHolds ⟨b0, b1, b2, b3, x⟩ = true ↔ x = b0 + b1 + b2 + b3 := by
  rw [checksumHolds, beq_iff_eq, eq_comm]
  rfl

/-- Settles O41: the accepted fifth byte is the sum of the other four. -/
theorem oneChecksumPerFrame : Obligations.OneChecksumPerFrame := by
  intro s b0 b1 b2 b3 hst
  refine ⟨b0 + b1 + b2 + b3, fun x => ?_⟩
  have hiff := checksumHolds_iff_eq_sum b0 b1 b2 b3 x
  by_cases hx : x = b0 + b1 + b2 + b3
  · exact ⟨_, exec_check_valid hst (hiff.mpr hx), fun _ => rfl, fun hne => absurd hx hne⟩
  · exact ⟨_, exec_check_invalid hst (mt hiff.mp hx), fun heq => absurd heq hx, fun _ => ⟨rfl, rfl⟩⟩

end Sys2Proof.Machine
end

section
/-! SUPPORT. The converter: what `CONVERT` writes under each sensor model (R167 to R170 of 44_converter.md). -/

namespace Sys2Proof.Machine

/-! ### The tenths of a frame -/

/-- Ten times a byte is at most 2550, so nothing wraps (R167). -/
theorem tenTimes_toNat (b : Byte) : (tenTimes b).toNat = 10 * b.toNat := by
  have hb := b.isLt
  calc (tenTimes b).toNat = b.toNat * 10 % 2 ^ 16 := by
        rw [tenTimes, BitVec.toNat_mul, BitVec.toNat_setWidth_of_le (by decide)]
        rfl
    _ = 10 * b.toNat := by omega

/-- Ten times a byte is no negative number (R167). -/
theorem tenTimes_toInt (b : Byte) : (tenTimes b).toInt = 10 * (b.toNat : Int) := by
  have hb := b.isLt
  rw [BitVec.toInt_eq_toNat_of_lt (by rw [tenTimes_toNat]; omega), tenTimes_toNat]
  rfl

/-- The magnitude is the halfword without its top bit (R94 of 30_encoding.md). -/
theorem magnitude_toNat (t : BitVec 16) : (t &&& 0x7FFF).toNat = t.toNat % 32768 :=
  Nat.and_two_pow_sub_one_eq_mod t.toNat 15

/-- Sign and magnitude as an integer: the two zeros, 0 and 32768, are one number (R169, R172). -/
theorem signMagnitude_toInt (t : BitVec 16) :
    (signMagnitude t).toInt = if t.toNat < 32768 then (t.toNat : Int) else -((t.toNat : Int) - 32768) := by
  have ht := t.isLt
  have hmagnitude := magnitude_toNat t
  rw [signMagnitude, BitVec.msb_eq_decide]
  by_cases hsign : t.toNat < 32768
  · rw [if_neg (by simpa using hsign), if_pos hsign, BitVec.toInt_eq_toNat_of_lt (by omega)]
  · rw [if_pos (by simpa using hsign), if_neg hsign, BitVec.toInt_neg, BitVec.toInt_eq_toNat_of_lt (by omega),
      Int.bmod_eq_of_le (by omega) (by omega)]
    omega

/-! ### The statements about CONVERT -/

/-- Settles O42: the conversion of `DHT11` reads `B[0]` and `B[2]` alone. -/
theorem convertDht11TakesTheHighBytes : Obligations.ConvertDht11TakesTheHighBytes := by
  intro s hst hmodel
  have hconversion : conversion s.model s.b = some (tenTimes s.b.b0, tenTimes s.b.b2) := by rw [hmodel]; rfl
  exact ⟨_, _, exec_convert hst hconversion, tenTimes_toNat _, tenTimes_toInt _⟩

/-- Settles O43: both halfwords are big-endian, and only the temperature has a sign bit. -/
theorem convertDht22IsSignMagnitude : Obligations.ConvertDht22IsSignMagnitude := by
  intro s hst hmodel
  have hconversion : conversion s.model s.b =
      some (humidityHalfword s.b, signMagnitude (temperatureHalfword s.b)) := by rw [hmodel]; rfl
  have htemp : (temperatureHalfword s.b).toNat = s.b.b2.toNat * 256 + s.b.b3.toNat := append_toNat _ _
  refine ⟨_, _, exec_convert hst hconversion, append_toNat _ _, ?_⟩
  rw [signMagnitude_toInt, htemp]

end Sys2Proof.Machine
end

section
/-! SUPPORT. The float views of the Reading: the rounding to the nearest binary32 number, and `RD` of `HUMF` and `TEMPF`
(R30 of 10_state.md, R171, R172 of 44_converter.md). -/

namespace Sys2Proof.Machine

/-! ### Rounding -/

/-- Where there is no tie, the rounded quotient is less than half a unit away. -/
theorem roundHalfEven_nearest {n d : Nat} (hd : 0 < d) (htie : 2 * (n % d) ≠ d) :
    2 * (d * roundHalfEven n d) < 2 * n + d ∧ 2 * n < 2 * (d * roundHalfEven n d) + d := by
  have hdivision := Nat.div_add_mod n d
  have hremainder := Nat.mod_lt n hd
  unfold roundHalfEven
  split
  · omega
  · rw [if_pos (by omega), Nat.mul_succ]
    omega

section
variable {m l : Nat}

/-- With `2^l` the power of two at or below `16 m / 10`, the tenths scaled by `2^(27-l)` lie between ten times the least
24-bit significand and ten times its double. -/
theorem scaledTenths_bounds (hl : l ≤ 27) (hlow : 10 * 2 ^ l ≤ 16 * m) (hhigh : 16 * m < 10 * 2 ^ (l + 1)) :
    10 * 2 ^ 23 ≤ m * 2 ^ (27 - l) ∧ m * 2 ^ (27 - l) < 10 * 2 ^ 24 := by
  have hpow : 2 ^ l * 2 ^ (27 - l) = 2 ^ 27 := by rw [← Nat.pow_add, Nat.add_sub_cancel' hl]
  have hscaledLow := Nat.mul_le_mul_right (2 ^ (27 - l)) hlow
  have hscaledHigh := Nat.mul_lt_mul_of_pos_right hhigh (Nat.two_pow_pos (27 - l))
  rw [Nat.mul_assoc, Nat.mul_assoc] at hscaledLow
  rw [Nat.pow_succ', Nat.mul_assoc, Nat.mul_assoc, Nat.mul_assoc] at hscaledHigh
  omega

/-- The tenths scaled by a multiple of `2^11` round without a tie, and without a carry out of the 24-bit significand: a
multiple of `2^11` below `10 * 2^24` is not within 5 of it. -/
theorem roundedTenths_bounds (hl : l ≤ 16) (hlow : 10 * 2 ^ 23 ≤ m * 2 ^ (27 - l))
    (hhigh : m * 2 ^ (27 - l) < 10 * 2 ^ 24) :
    2 ^ 23 ≤ roundHalfEven (m * 2 ^ (27 - l)) 10 ∧ roundHalfEven (m * 2 ^ (27 - l)) 10 < 2 ^ 24 ∧
      10 * roundHalfEven (m * 2 ^ (27 - l)) 10 < m * 2 ^ (27 - l) + 5 ∧
      m * 2 ^ (27 - l) < 10 * roundHalfEven (m * 2 ^ (27 - l)) 10 + 5 := by
  have hmultiple : 2 ^ 11 ∣ m * 2 ^ (27 - l) := (Nat.pow_dvd_pow 2 (by omega)).mul_left m
  obtain ⟨hbelow, habove⟩ := roundHalfEven_nearest (n := m * 2 ^ (27 - l)) (d := 10) (by decide) (by omega)
  omega

/-- The exponent of the tenths of a 16-bit register (R171: `m` below 2^16). -/
theorem log2_tenths (hpos : 0 < m) (hm : m < 2 ^ 16) :
    Nat.log2 (16 * m / 10) ≤ 16 ∧ 10 * 2 ^ Nat.log2 (16 * m / 10) ≤ 16 * m ∧
      16 * m < 10 * 2 ^ (Nat.log2 (16 * m / 10) + 1) := by
  have hne : 16 * m / 10 ≠ 0 := by omega
  have hlow := Nat.log2_self_le hne
  have hhigh := Nat.lt_log2_self (n := 16 * m / 10)
  have hlog : Nat.log2 (16 * m / 10) < 17 := (Nat.log2_lt hne).mpr (by omega)
  omega

/-! ### The nearest binary32 number -/

theorem binary32OfTenths_of_pos (hpos : 0 < m) :
    binary32OfTenths m = BitVec.ofNat 32 ((Nat.log2 (16 * m / 10) + 122) * 2 ^ 23 +
      roundHalfEven (m * 2 ^ (27 - Nat.log2 (16 * m / 10))) 10) :=
  if_neg hpos.ne'

/-- The model's encoding of a positive number of tenths is the nearest binary32 number (R171). -/
theorem nearestTenths_binary32OfTenths (hpos : 0 < m) (hm : m < 2 ^ 16) : NearestTenths (binary32OfTenths m) m := by
  obtain ⟨hl, hlow, hhigh⟩ := log2_tenths hpos hm
  obtain ⟨hscaledLow, hscaledHigh⟩ := scaledTenths_bounds (by omega) hlow hhigh
  obtain ⟨hnormal, hcarry, hbelow, habove⟩ := roundedTenths_bounds hl hscaledLow hscaledHigh
  rw [binary32OfTenths_of_pos hpos]
  generalize Nat.log2 (16 * m / 10) = l at *
  generalize roundHalfEven (m * 2 ^ (27 - l)) 10 = q at *
  refine ⟨l + 123, q - 2 ^ 23, by omega, by omega, by omega, ?_, ?_⟩
  · rw [BitVec.toNat_ofNat, Nat.mod_eq_of_lt (by omega)]
    omega
  · rw [show 150 - (l + 123) = 27 - l by omega, Nat.add_sub_cancel' hnormal]
    exact ⟨hbelow, habove⟩

end

/-- A nearest number has a clear sign bit. -/
theorem NearestTenths.toNat_lt {w : Word} {m : Nat} (h : NearestTenths w m) : w.toNat < 2 ^ 31 := by
  obtain ⟨e, f, -, he, hf, hw, -⟩ := h
  omega

/-- The sign bit set on a word that has it clear. -/
theorem binary32Sign_or_toNat {w : Word} (h : w.toNat < 2 ^ 31) :
    (binary32Sign true ||| w).toNat = 2 ^ 31 + w.toNat := by
  rw [BitVec.toNat_or]
  exact (Nat.two_pow_add_eq_or_of_lt h 1).symm

/-! ### The two views -/

/-- `TEMPF` of zero is one of the two zeros (R172). -/
theorem tempf_zero (zeroSign : Bool) : tempf zeroSign 0 = 0 ∨ tempf zeroSign 0 = 0x80000000 := by
  cases zeroSign
  · exact .inl rfl
  · exact .inr rfl

/-- `TEMPF` of a positive temperature is its magnitude. -/
theorem tempf_of_pos {temp10 : BitVec 16} (h : 0 < temp10.toInt) (zeroSign : Bool) :
    tempf zeroSign temp10 = binary32OfTenths temp10.toInt.natAbs := by
  have hne : temp10 ≠ 0 := by rintro rfl; exact absurd h (by decide)
  rw [tempf, if_neg hne, decide_eq_false h.le.not_gt]
  exact BitVec.zero_or

/-- `TEMPF` of a negative temperature is its magnitude with the sign bit set. -/
theorem tempf_of_neg {temp10 : BitVec 16} (h : temp10.toInt < 0) (zeroSign : Bool) :
    tempf zeroSign temp10 = binary32Sign true ||| binary32OfTenths temp10.toInt.natAbs := by
  have hne : temp10 ≠ 0 := by rintro rfl; exact absurd h (by decide)
  rw [tempf, if_neg hne, decide_eq_true h]

/-- The magnitude of a signed 16-bit register fits the encoding, -32768 too. -/
theorem nearestTenths_natAbs {temp10 : BitVec 16} (h : temp10.toInt ≠ 0) :
    NearestTenths (binary32OfTenths temp10.toInt.natAbs) temp10.toInt.natAbs := by
  have hlow := temp10.le_toInt
  have hhigh := temp10.toInt_lt
  exact nearestTenths_binary32OfTenths (by omega) (by omega)

/-! ### RD of a readable register -/

/-- `RD` of a readable register answers its value with DONE and the unchanged `ERR`, and writes only the response (R182
of 45_control_and_host.md). -/
theorem exec_rd_of_readable {s : State} {reg : Reg} (hread : readable reg s.st = true) :
    exec (.rd (regNumber reg)) s = .next { s with rsp := some (responseWord .done s.err (readReg reg s)) } := by
  have hadmitted : admitted (.rd (regNumber reg)) s = true := by simpa [admitted_rd] using hread
  rw [exec_answersOnly rfl hadmitted, answer, regOfNumber_regNumber]
  rfl

/-- Settles O19: `HUM10` is unsigned, so its number is the nearest one to the register as it stands. -/
theorem rdHumfIsTheNearestFloat : Obligations.RdHumfIsTheNearestFloat := by
  intro s hst
  have hread : readable .humf s.st = true := by rw [hst]; rfl
  refine ⟨_, exec_rd_of_readable hread, fun hzero => ?_, fun hne => ?_⟩
  · rw [readReg, hzero]
    rfl
  · have hpos : 0 < s.hum10.toNat := Nat.pos_of_ne_zero (mt (BitVec.toNat_inj (y := 0#16)).mp hne)
    exact nearestTenths_binary32OfTenths hpos s.hum10.isLt

/-- Settles O20: the three cases of the sign of `TEMP10`; the sign of zero is the free value of log 9. -/
theorem rdTempfIsTheNearestFloat : Obligations.RdTempfIsTheNearestFloat := by
  intro s hst
  have hread : readable .tempf s.st = true := by rw [hst]; rfl
  refine ⟨_, exec_rd_of_readable hread, fun hzero => ?_, fun hpos => ?_, fun hneg => ?_⟩
  · rw [readReg, hzero]
    exact tempf_zero _
  · rw [readReg, tempf_of_pos hpos]
    exact nearestTenths_natAbs hpos.ne'
  · have hnearest := nearestTenths_natAbs hneg.ne
    refine ⟨_, hnearest, ?_⟩
    rw [readReg, tempf_of_neg hneg]
    exact binary32Sign_or_toNat hnearest.toNat_lt

end Sys2Proof.Machine
end

section
/-! SUPPORT. The control commands: `CLEAR`, `SETMODEL`, `STATUS`, and `RD` of the registers that hold no float (R180 to
R183 of 45_control_and_host.md). -/

namespace Sys2Proof.Machine

/-! ### CLEAR, SETMODEL, STATUS -/

/-- Settles O13: `CLEAR` is admitted in every stage but `RUN` (R34 of 10_state.md). -/
theorem clearReturnsToIdle : Obligations.ClearReturnsToIdle :=
  ⟨rfl, fun _ => ⟨exec_clear, fun hrun => exec_of_not_admitted (by simp [admitted, hrun])⟩⟩

/-- Settles O14: the codes of the three models are the operands that `SETMODEL` admits, in the stages of R34. -/
theorem setmodelWritesTheModel : Obligations.SetmodelWritesTheModel := by
  refine ⟨fun _ => rfl, fun s => ⟨fun m hrun hconv => ?_, fun m hnot => exec_of_not_admitted ?_⟩⟩
  · exact exec_setmodel (modelOfCode_modelCode m) hrun hconv
  · rcases hnot with hrun | hconv | hm
    · simp [admitted, hrun]
    · simp [admitted, hconv]
    · simp [admitted, hm]

/-- Settles O15: `STATUS` is one of the commands that only answer, and its answer is its operand. -/
theorem statusNamesItsOperand : Obligations.StatusNamesItsOperand := by
  refine ⟨fun _ => rfl, fun s k hrun => ?_, fun s k hrun => ?_, errorOfCode_errorCode, rfl, rfl⟩
  · exact exec_answersOnly rfl (by simpa [admitted] using hrun)
  · exact exec_of_not_admitted (by simp [admitted, hrun])

/-! ### RD of the registers that hold no float -/

/-- Settles O16: the six status registers are readable in every stage but `RUN`. -/
theorem rdReadsTheStatusRegisters : Obligations.RdReadsTheStatusRegisters := by
  intro s hrun
  have hread : (s.st != .run) = true := bne_iff_ne.mpr hrun
  exact ⟨readReg .st s, readReg .err s, readReg .model s, readReg .idx s, readReg .nb s, readReg .t0 s,
    exec_rd_of_readable (reg := .st) hread, BitVec.toNat_setWidth_of_le (by decide),
    exec_rd_of_readable (reg := .err) hread, BitVec.toNat_setWidth_of_le (by decide),
    exec_rd_of_readable (reg := .model) hread, BitVec.toNat_setWidth_of_le (by decide),
    exec_rd_of_readable (reg := .idx) hread, BitVec.toInt_signExtend_of_le (by decide),
    exec_rd_of_readable (reg := .nb) hread, BitVec.toNat_setWidth_of_le (by decide),
    exec_rd_of_readable (reg := .t0) hread, rfl⟩

/-- Register 8 + k is byte `B[k]`, readable where a frame is held (R35, R40 of 10_state.md). -/
theorem frameRegister {k : Nat} (hk : k < 5) :
    ∃ reg, BitVec.ofNat 5 (8 + k) = regNumber reg ∧ (∀ st, readable reg st = frameReadable st) ∧
      ∀ s, readReg reg s = (frameByte s.b k).setWidth 32 := by
  match k with
  | 0 => exact ⟨.b0, rfl, fun _ => rfl, fun _ => rfl⟩
  | 1 => exact ⟨.b1, rfl, fun _ => rfl, fun _ => rfl⟩
  | 2 => exact ⟨.b2, rfl, fun _ => rfl, fun _ => rfl⟩
  | 3 => exact ⟨.b3, rfl, fun _ => rfl, fun _ => rfl⟩
  | 4 => exact ⟨.b4, rfl, fun _ => rfl, fun _ => rfl⟩

/-- Settles O17: the three stages are those in which a frame may be read. -/
theorem rdReadsTheFrame : Obligations.RdReadsTheFrame := by
  intro s hst k hk
  obtain ⟨reg, hnumber, hreadable, hvalue⟩ := frameRegister hk
  have hheld : frameReadable s.st = true := by rcases hst with h | h | h <;> rw [h] <;> rfl
  refine ⟨readReg reg s, ?_, ?_⟩
  · rw [hnumber]
    exact exec_rd_of_readable ((hreadable s.st).trans hheld)
  · rw [hvalue]
    exact BitVec.toNat_setWidth_of_le (by decide)

/-- Settles O18: both registers of the Reading are readable in `CONVERTED`. -/
theorem rdReadsTheTenths : Obligations.RdReadsTheTenths := by
  intro s hst
  have hread : (s.st == .converted) = true := beq_iff_eq.mpr hst
  exact ⟨readReg .hum10 s, readReg .temp10 s,
    exec_rd_of_readable (reg := .hum10) hread, BitVec.toNat_setWidth_of_le (by decide),
    exec_rd_of_readable (reg := .temp10) hread, BitVec.toInt_signExtend_of_le (by decide)⟩

end Sys2Proof.Machine
end

section
/-! SUPPORT. One read cycle of the host over the block (R192, R196, R197 of 45_control_and_host.md): the commands it
issues, the stages it takes the block through, and the two ends it can have. -/

namespace Sys2Proof.Machine

/-! ### Commands issued to the block -/

/-- A well-formed command issued to the block does what its `exec` does (R190). -/
theorem issue_of_exec {i : Instr} (hwf : i.WellFormed = true) {s t : State} (h : exec i s = .next t) :
    issue i s = some t :=
  (issue_eq_some (decodeReadsBackEveryEncoding i hwf)).mpr h

theorem exec_of_issue {i : Instr} (hwf : i.WellFormed = true) {s t : State} (h : issue i s = some t) :
    exec i s = .next t :=
  (issue_eq_some (decodeReadsBackEveryEncoding i hwf)).mp h

/-- A well-formed command is always answered, and stays inside the block. -/
theorem issue_completes {i : Instr} (hwf : i.WellFormed = true) (s : State) :
    ∃ t, issue i s = some t ∧ SameOutside s t := by
  obtain ⟨t, hexec, heffect⟩ := exec_effect i s
  exact ⟨t, issue_of_exec hwf hexec, heffect.sameOutside⟩

theorem issue_pollCommand (level : Bool) (now : Word) (s : State) :
    issue (pollCommand level now) s = some (poll level now s) :=
  issue_of_exec (wellFormed_pollCommand level now) (exec_pollCommand level now s)

theorem lastResponse_eq {s : State} {w : ResponseWord} (h : s.rsp = some w) : lastResponse s = w := by
  rw [lastResponse, h, Option.getD_some]

@[simp] theorem lastResponse_respond (a : Ack) (e : ErrorKind) (d : Word) (s : State) :
    lastResponse (respond a e d s) = responseWord a e d := rfl

@[simp] theorem lastResponse_raiseError (k : ErrorKind) (d : Word) (s : State) :
    lastResponse (raiseError k d s) = responseWord .done k d := rfl

/-! ### The stages of a read cycle -/

/-- What the host sees between two steps of a read cycle: the block in stage `st` under model `m`, with `ERR` = `e` in
the register and in the last response. -/
structure Answered (m : SensorModel) (st : Stage) (e : ErrorKind) (s : State) : Prop where
  model : s.model = m
  stage : s.st = st
  error : s.err = e
  response : responseErr (lastResponse s) = errorCode e

section
variable {m : SensorModel} {st : Stage} {e : ErrorKind} {s t : State}

theorem Answered.noError (h : Answered m st .none s) : responseErr (lastResponse s) = 0 := h.response

theorem Answered.isError (h : Answered m st e s) (he : e ≠ .none) : ¬ responseErr (lastResponse s) = 0 :=
  fun hzero => he (errorCode_injective (h.response.symm.trans hzero))

/-- The next command is issued after a response without an error, and only then (R197). -/
theorem Answered.issueIfNoError_none (h : Answered m st .none s) (i : Instr) : issueIfNoError i s = issue i s :=
  if_pos h.noError

theorem Answered.issueIfNoError_error (h : Answered m st e s) (he : e ≠ .none) (i : Instr) :
    issueIfNoError i s = some s :=
  if_neg (h.isError he)

/-- What the framers leave: a frame, or `Timeout`. -/
def DecodeEnds (m : SensorModel) (s : State) : Prop := Answered m .framed .none s ∨ Answered m .failed .timeout s

/-- What a read cycle leaves: a Reading, or one of the two errors of the block (R217 of 60_exceptions.md). -/
def CycleEnds (m : SensorModel) (s : State) : Prop :=
  Answered m .converted .none s ∨ ∃ e, (e = .timeout ∨ e = .checksumMismatch) ∧ Answered m .failed e s

/-! ### The decode -/

@[simp] theorem observeEdge_model (now : Word) (s : State) : (observeEdge now s).model = s.model := by
  obtain ⟨_, _, _, _, heq⟩ := observeEdge_rest now s
  rw [heq]

/-- A poll in `RUN` answers `PENDING` and leaves the decode running, or ends it. -/
theorem poll_pending_or_ends (hrun : s.st = .run) (herr : s.err = .none) (level : Bool) (now : Word) :
    (responseAck (lastResponse (poll level now s)) = 1 ∧ (poll level now s).st = .run ∧
        (poll level now s).err = .none ∧ (poll level now s).model = s.model) ∨
      (responseAck (lastResponse (poll level now s)) ≠ 1 ∧ DecodeEnds s.model (poll level now s)) := by
  rcases poll_cases level now s with ⟨hne, -⟩ | ⟨-, -, heq⟩ | ⟨-, -, -, heq⟩ | ⟨-, -, -, heq⟩
  · exact absurd hrun hne
  · rw [heq]
    exact .inr ⟨by simp [ackCode], .inr ⟨rfl, rfl, rfl, by simp⟩⟩
  · rw [heq]
    exact .inl ⟨by simp [ackCode], hrun, herr, rfl⟩
  · rw [heq]
    have hrsp := lastResponse_eq (observeEdge_rsp now s)
    have hst := observeEdge_st (now := now) hrun
    by_cases hlast : s.idx = 79
    · rw [if_pos hlast] at hrsp hst
      exact .inr ⟨by simp [hrsp, ackCode], .inl ⟨by simp, hst, by simp [herr], by simp [hrsp]⟩⟩
    · rw [if_neg hlast] at hrsp hst
      exact .inl ⟨by simp [hrsp, ackCode], hst, by simp [herr], by simp⟩

/-- Polling in `RUN` until a response is not `PENDING` ends the decode. -/
theorem pollUntilDone_ends {polls : List (Bool × Word)} (hrun : s.st = .run) (herr : s.err = .none)
    (h : pollUntilDone polls s = some t) : DecodeEnds s.model t := by
  induction polls generalizing s with
  | nil => cases h
  | cons x rest ih =>
    obtain ⟨level, now⟩ := x
    simp only [pollUntilDone, issue_pollCommand] at h
    rcases poll_pending_or_ends hrun herr level now with ⟨hack, hrun', herr', hmodel⟩ | ⟨hack, hends⟩
    · rw [if_pos hack] at h
      exact hmodel ▸ ih hrun' herr' h
    · rw [if_neg hack] at h
      cases h
      exact hends

theorem finishDecode_ends (c : Capture) (s : State) : DecodeEnds s.model (finishDecode c s) := by
  rcases finishDecode_cases c s with ⟨-, heq⟩ | ⟨-, heq⟩ <;> rw [heq]
  · exact .inl ⟨rfl, rfl, rfl, by simp [lastResponse]⟩
  · exact .inr ⟨rfl, rfl, rfl, by simp [lastResponse]⟩

/-- The decode of a read cycle, by either framer, begun outside `RUN` (R197, R205). -/
theorem decodeFrame_ends {v : Variant} {env : ReadEnv} (hrun : s.st ≠ .run) (h : decodeFrame v env s = some t) :
    DecodeEnds s.model t := by
  cases v with
  | edge =>
    rw [decodeFrame, issue_of_exec rfl (exec_startE hrun env.startNow), Option.bind_some] at h
    exact (pollUntilDone_ends rfl rfl h :)
  | sampled =>
    obtain ⟨u, hpresent, hissue⟩ := Option.bind_eq_some_iff.mp h
    obtain ⟨-, rfl⟩ := present_transfer.mp hpresent
    have hexec := exec_of_issue rfl hissue
    rw [exec_decodeS (s := { s with mem := cellsFrom 0 env.buffer }) hrun] at hexec
    cases hexec
    exact finishDecode_ends _ { s with mem := cellsFrom 0 env.buffer }

/-! ### CHECK and CONVERT -/

/-- `CHECK` of a frame (R161 of 43_checksum.md). -/
theorem Answered.check (h : Answered m .framed .none s) (hissue : issue .check s = some t) :
    Answered m .accepted .none t ∨ Answered m .failed .checksumMismatch t := by
  have hexec := exec_of_issue rfl hissue
  by_cases hvalid : checksumHolds s.b = true
  · rw [exec_check_valid h.stage hvalid] at hexec
    cases hexec
    exact .inl ⟨h.model, rfl, h.error, by simp [lastResponse]⟩
  · rw [exec_check_invalid h.stage hvalid] at hexec
    cases hexec
    exact .inr ⟨h.model, rfl, rfl, by simp [lastResponse]⟩

/-- `CONVERT` of a verified frame under a model that is not `AUTO` (R170 of 44_converter.md). -/
theorem Answered.convert (h : Answered m .accepted .none s) (hm : m ≠ .auto) (hissue : issue .convert s = some t) :
    Answered m .converted .none t := by
  obtain ⟨r, hr⟩ := Option.ne_none_iff_exists'.mp (conversion_eq_none.not.mpr (h.model ▸ hm))
  have hexec := exec_of_issue rfl hissue
  rw [exec_convert h.stage hr] at hexec
  cases hexec
  exact ⟨h.model, rfl, h.error, by simp [writeReading]⟩

end

/-- The commands of a read cycle before the copy-out: decode, `CHECK`, `CONVERT` (R197). -/
def cycleBlock (v : Variant) (env : ReadEnv) (s : State) : Option State :=
  ((decodeFrame v env s).bind (issueIfNoError .check)).bind (issueIfNoError .convert)

theorem readCycle_eq (p : HostParams) (env : ReadEnv) (w : World) :
    readCycle p env w =
      (cycleBlock w.session.variant env w.block).bind
        (finishRead env
          { w with line := w.line ++ requestSequence p w.session.variant w.session.model w.block.cfg }) := rfl

/-- An error of one step passes through the rest of the cycle; without an error each step leads to the next. -/
theorem cycleBlock_ends {v : Variant} {env : ReadEnv} {s t : State} (hrun : s.st ≠ .run) (hm : s.model ≠ .auto)
    (h : cycleBlock v env s = some t) : CycleEnds s.model t := by
  obtain ⟨checked, hchecked, hconvert⟩ := Option.bind_eq_some_iff.mp h
  obtain ⟨decoded, hdecoded, hcheck⟩ := Option.bind_eq_some_iff.mp hchecked
  rcases decodeFrame_ends hrun hdecoded with hframed | htimeout
  · rw [hframed.issueIfNoError_none] at hcheck
    rcases hframed.check hcheck with haccepted | hmismatch
    · rw [haccepted.issueIfNoError_none] at hconvert
      exact .inl (haccepted.convert hm hconvert)
    · rw [hmismatch.issueIfNoError_error nofun] at hconvert
      cases hconvert
      exact .inr ⟨_, .inr rfl, hmismatch⟩
  · rw [htimeout.issueIfNoError_error nofun] at hcheck
    cases hcheck
    rw [htimeout.issueIfNoError_error nofun] at hconvert
    cases hconvert
    exact .inr ⟨_, .inl rfl, htimeout⟩

/-! ### The end of a read cycle -/

/-- In `CONVERTED` the host copies out the two float views, and the block keeps all but the response. -/
theorem copyReading_converted {s : State} (h : s.st = .converted) :
    copyReading s =
      some ({ s with rsp := some (responseWord .done s.err (readReg .tempf s)) }, ⟨readReg .humf s, readReg .tempf s⟩) := by
  have hreadable : (s.st == .converted) = true := beq_iff_eq.mpr h
  have hhum := issue_of_exec rfl (exec_rd_of_readable (reg := .humf) hreadable)
  have htemp := issue_of_exec rfl
    (exec_rd_of_readable (reg := .tempf)
      (s := { s with rsp := some (responseWord .done s.err (readReg .humf s)) }) hreadable)
  simp only [regNumber] at hhum htemp
  simp only [copyReading, hhum, Option.bind_some, htemp, Option.map_some, lastResponse, Option.getD_some,
    responseData_responseWord]
  rfl

/-- The ends of a read cycle as the host records them (R192, R197, R218 of 60_exceptions.md): the block and the line
apart, the session is the old one but for what the read writes. -/
inductive ReadEnds (env : ReadEnv) (h : Session) : World → ReadResult → Prop where
  | reading (block : State) (line : List LineAction) (x : Reading) (hst : block.st = .converted)
      (herr : block.err = .none) :
      ReadEnds env h
        { block := block
          session :=
            { h with
              reading := some x, lastOk := some env.doneNow, lastErr := some .none, stage := .ready,
              attempts := h.attempts + 1 }
          line := line }
        (.reading x)
  | error (block : State) (line : List LineAction) (e : ErrorKind) (he : e = .timeout ∨ e = .checksumMismatch)
      (hst : block.st = .failed) (herr : block.err = e) :
      ReadEnds env h
        { block := block
          session := { h with lastErr := some e, stage := .ready, attempts := h.attempts + 1 }
          line := line }
        (.error (some e))

/-- A cycle that ended in an error is recorded with its kind. -/
theorem finishRead_of_error {m : SensorModel} {st : Stage} {e : ErrorKind} {s : State} (h : Answered m st e s)
    (he : e ≠ .none) (env : ReadEnv) (w : World) :
    finishRead env w s =
      some
        ({ w with
           block := s
           session := { w.session with lastErr := some e, stage := .ready, attempts := w.session.attempts + 1 } },
         .error (some e)) := by
  rw [finishRead, if_neg (h.isError he), h.response, errorOfCode_errorCode]

theorem finishRead_ends {env : ReadEnv} {w w' : World} {r : ReadResult} {m : SensorModel} {s : State}
    (h : CycleEnds m s) (hfinish : finishRead env w s = some (w', r)) : ReadEnds env w.session w' r := by
  rcases h with hconverted | ⟨e, he, hfailed⟩
  · rw [finishRead, if_pos hconverted.noError, copyReading_converted hconverted.stage] at hfinish
    cases hfinish
    exact .reading _ _ _ hconverted.stage hconverted.error
  · rw [finishRead_of_error hfailed (by rcases he with rfl | rfl <;> nofun)] at hfinish
    cases hfinish
    exact .error _ _ e he hfailed.stage hfailed.error

/-- One read cycle from a block outside `RUN` whose model is not `AUTO`. -/
theorem readCycle_ends {p : HostParams} {env : ReadEnv} {w w' : World} {r : ReadResult} (hrun : w.block.st ≠ .run)
    (hm : w.block.model ≠ .auto) (h : readCycle p env w = some (w', r)) : ReadEnds env w.session w' r := by
  rw [readCycle_eq] at h
  obtain ⟨s, hblock, hfinish⟩ := Option.bind_eq_some_iff.mp h
  exact (finishRead_ends (cycleBlock_ends hrun hm hblock) hfinish :)

theorem readSession_ready (p : HostParams) (env : ReadEnv) {w : World} (h : w.session.stage = .ready) :
    readSession p env w = readCycle p env w := if_pos h

/-- A session that is not `Ready` issues no command and returns its last error (R197, D33). -/
theorem readSession_not_ready (p : HostParams) (env : ReadEnv) {w : World} (h : w.session.stage ≠ .ready) :
    readSession p env w = some (w, .error w.session.lastErr) := if_neg h

/-- Settles O55: the two ends of a read cycle, written out. -/
theorem readEndsInAReadingOrAnError : Obligations.ReadEndsInAReadingOrAnError := by
  intro p env w w' r hready hrun hm hread
  rw [readSession_ready p env hready] at hread
  cases readCycle_ends hrun hm hread with
  | reading block line x hst herr => exact ⟨rfl, .inl ⟨x, rfl, rfl, rfl, rfl, hst, herr⟩⟩
  | error block line e he hst herr => exact ⟨rfl, .inr ⟨e, rfl, rfl, rfl, rfl, hst, herr, he⟩⟩

/-! ### The request of a read -/

theorem finishRead_line {env : ReadEnv} {w w' : World} {r : ReadResult} {s : State}
    (h : finishRead env w s = some (w', r)) : w'.line = w.line := by
  unfold finishRead at h
  split at h
  · obtain ⟨x, -, heq⟩ := Option.map_eq_some_iff.mp h
    cases heq
    rfl
  · cases h
    rfl

/-- A read cycle adds its request to what was done to the transport, and nothing else (R196, R204). -/
theorem readCycle_line {p : HostParams} {env : ReadEnv} {w w' : World} {r : ReadResult}
    (h : readCycle p env w = some (w', r)) :
    w'.line = w.line ++ requestSequence p w.session.variant w.session.model w.block.cfg := by
  rw [readCycle_eq] at h
  obtain ⟨s, -, hfinish⟩ := Option.bind_eq_some_iff.mp h
  exact finishRead_line hfinish

/-- Settles O56: the request sequence of the GPIO line, and D27. -/
theorem readDrivesTheRequestOfItsModel : Obligations.ReadDrivesTheRequestOfItsModel := by
  refine ⟨fun p env w w' r hready hedge hread => ?_, fun p hok => hok.2⟩
  rw [readSession_ready p env hready] at hread
  rw [readCycle_line hread, hedge]
  rfl

end Sys2Proof.Machine
end

section
/-! SUPPORT. The life of a session: `setup`, the ModelDetector, the accessors and `teardown` (R193, R194, R198, R200 of
45_control_and_host.md). -/

namespace Sys2Proof.Machine

/-! ### CLEAR and SETMODEL issued by the session -/

/-- The world after `CLEAR`. -/
def cleared (w : World) : World :=
  { w with block := { w.block with st := .idle, err := .none, rsp := some (responseWord .done .none 0) } }

/-- The world after `CLEAR` and `SETMODEL` of the session's model. -/
def configured (w : World) : World :=
  { w with
    block := { w.block with
      st := .idle, err := .none, model := w.session.model,
      rsp := some (responseWord .done .none ((modelCode w.session.model).setWidth 32)) } }

theorem issueClear_eq {w : World} (hrun : w.block.st ≠ .run) : issueClear w = some (cleared w) := by
  rw [issueClear, issue_of_exec rfl (exec_clear hrun)]
  rfl

theorem issueModel_cleared (w : World) : issueModel (cleared w) = some (configured w) := by
  have hwf : (Instr.setmodel (modelCode (cleared w).session.model)).WellFormed = true := by
    cases (cleared w).session.model <;> rfl
  have hexec := exec_setmodel (s := (cleared w).block) (modelOfCode_modelCode (cleared w).session.model) nofun nofun
  rw [issueModel, issue_of_exec hwf hexec]
  rfl

/-! ### Setup -/

/-- The world before the first command of `setup`. -/
def newWorld (m : SensorModel) (v : Variant) (s : State) : World :=
  { block := s, session := newSession m v, line := acquireActions v s.cfg }

/-- The session with another model. -/
def withModel (m : SensorModel) (w : World) : World := { w with session := { w.session with model := m } }

/-- The session with its lifecycle at `Ready`. -/
def ready (w : World) : World := { w with session := { w.session with stage := .ready } }

section
variable {p : HostParams} {v : Variant} {env : ReadEnv} {s : State} {w : World} {r : ReadResult}

/-- `setup` with its first `CLEAR` taken (R193). -/
theorem setupAcquired_eq (hrun : s.st ≠ .run) (p : HostParams) (m : SensorModel) (v : Variant) (env : ReadEnv) :
    setupAcquired p m v env s =
      (if m = .auto then (detectModel p env (cleared (newWorld m v s))).bind issueClear
        else some (cleared (newWorld m v s))).bind fun w2 => (issueModel w2).map ready := by
  change ((issueClear (newWorld m v s)).bind _).bind _ = _
  rw [issueClear_eq (w := newWorld m v s) hrun]
  rfl

/-- The detector's `SETMODEL` follows the `CLEAR` of `setup`; the probe is a read cycle under `DHT22` (R194). -/
theorem detectModel_cleared (p : HostParams) (v : Variant) (env : ReadEnv) (s : State) :
    detectModel p env (cleared (newWorld .auto v s)) =
      (readCycle p env (configured (newWorld .dht22 v s))).map fun x => withModel (probedModel x.2) x.1 := by
  change (issueModel (cleared (newWorld .dht22 v s))).bind _ = _
  rw [issueModel_cleared]
  rfl

/-- Under a model of the caller's `setup` makes no probe (R193). -/
theorem setupAcquired_of_model (hrun : s.st ≠ .run) {m : SensorModel} (hm : m ≠ .auto) :
    setupAcquired p m v env s = some (ready (configured (newWorld m v s))) := by
  rw [setupAcquired_eq hrun, if_neg hm, Option.bind_some, issueModel_cleared, Option.map_some]

/-- Under `AUTO` `setup` keeps what the one probe recorded, and configures the block for the probed model (R193, R194). -/
theorem setupAcquired_of_probe (hrun : s.st ≠ .run)
    (hprobe : readCycle p env (configured (newWorld .dht22 v s)) = some (w, r)) (hw : w.block.st ≠ .run) :
    setupAcquired p .auto v env s = some (ready (configured (withModel (probedModel r) w))) := by
  have hclear : issueClear (withModel (probedModel r) w) = some (cleared (withModel (probedModel r) w)) :=
    issueClear_eq hw
  rw [setupAcquired_eq hrun, if_pos rfl, detectModel_cleared, hprobe, Option.map_some, Option.bind_some, hclear,
    Option.bind_some, issueModel_cleared, Option.map_some]

/-- A `setup` under `AUTO` that completes has completed its probe. -/
theorem exists_probe (hrun : s.st ≠ .run) (h : setupAcquired p .auto v env s = some w) :
    ∃ probe r, readCycle p env (configured (newWorld .dht22 v s)) = some (probe, r) := by
  rw [setupAcquired_eq hrun, if_pos rfl, detectModel_cleared] at h
  cases hprobe : readCycle p env (configured (newWorld .dht22 v s)) with
  | none => simp [hprobe] at h
  | some x => exact ⟨x.1, x.2, rfl⟩

/-- The probe of `setup` begins outside `RUN` under `DHT22`, so it has the two ends of a read cycle. -/
theorem probe_ends (hprobe : readCycle p env (configured (newWorld .dht22 v s)) = some (w, r)) :
    ReadEnds env (newSession .dht22 v) w r :=
  readCycle_ends (w := configured (newWorld .dht22 v s)) nofun nofun hprobe

theorem ReadEnds.block_ne_run {h : Session} (hends : ReadEnds env h w r) : w.block.st ≠ .run := by
  cases hends with
  | reading block line x hst => simp [hst]
  | error block line e he hst => simp [hst]

end

/-- Settles O53: a caller's model goes straight to the block; under `AUTO` the cases are the ends of the probe. -/
theorem setupLeavesAModelAndIdle : Obligations.SetupLeavesAModelAndIdle := by
  intro p m v env s w hrun (hsetup : setupAcquired p m v env s = some w)
  by_cases hm : m = .auto
  · subst hm
    obtain ⟨probe, r, hprobe⟩ := exists_probe hrun hsetup
    have hends := probe_ends hprobe
    rw [setupAcquired_of_probe hrun hprobe hends.block_ne_run] at hsetup
    cases hsetup
    cases hends with
    | reading block line x =>
      exact ⟨rfl, rfl, rfl, nofun, rfl, nofun, fun _ => ⟨rfl, .inr (.inr ⟨rfl, rfl, x, rfl⟩)⟩⟩
    | error block line e he =>
      rcases he with rfl | rfl
      · exact ⟨rfl, rfl, rfl, nofun, rfl, nofun, fun _ => ⟨rfl, .inl ⟨rfl, rfl, rfl⟩⟩⟩
      · exact ⟨rfl, rfl, rfl, nofun, rfl, nofun, fun _ => ⟨rfl, .inr (.inl ⟨rfl, rfl, rfl⟩)⟩⟩
  · rw [setupAcquired_of_model hrun hm] at hsetup
    cases hsetup
    exact ⟨rfl, rfl, rfl, hm, rfl, fun _ => rfl, fun h => absurd h hm⟩

/-! ### Detection on a silent line -/

/-- Polls at the level the phase holds, within the ceiling, and then one past it, end in `Timeout` (R124, R130 of
41_framer_edge.md). -/
theorem pollUntilDone_silent {s : State} {waiting : List Word} {now : Word} (rest : List (Bool × Word))
    (hrun : s.st = .run) {level : Bool} (hlevel : phaseLevel s.idx = level)
    (hwaiting : ∀ t ∈ waiting, age t s.t0 ≤ s.cfg.ceilE) (hlate : s.cfg.ceilE < age now s.t0) :
    pollUntilDone (waiting.map (fun t => (level, t)) ++ (level, now) :: rest) s =
      some (raiseError .timeout (s.idx.signExtend 32) s) := by
  induction waiting generalizing s with
  | nil => simp [pollUntilDone, issue_pollCommand, poll_expired hrun hlate, ackCode]
  | cons t more ih =>
    obtain ⟨ht, hmore⟩ := List.forall_mem_cons.mp hwaiting
    have hpoll : poll level t s = respond .pending .none (s.idx.signExtend 32) s := hlevel ▸ poll_waiting hrun ht
    have hrest := ih (s := respond .pending .none (s.idx.signExtend 32) s) hrun hlevel hmore hlate
    simp only [List.map_cons, List.cons_append, pollUntilDone, issue_pollCommand, hpoll, lastResponse_respond,
      responseAck_responseWord, ackCode, if_pos]
    exact hrest

/-- The state that `START.E now` leaves (R122 of 41_framer_edge.md). -/
def started (now : Word) (s : State) : State :=
  respond .done .none 0 { s with st := .run, err := .none, idx := -3, nb := 0, b := RawFrame.zero, t0 := now }

/-- The first phase of a decode is one of a high line (R121 of 41_framer_edge.md). -/
theorem phaseLevel_first : phaseLevel (-3#8) = true := by decide

/-- A read cycle on a line that stays high, begun outside `RUN`: `Timeout` in the first phase. -/
theorem readCycle_silent {p : HostParams} {env : ReadEnv} {w : World} {waiting : List Word} {now : Word}
    {rest : List (Bool × Word)} (hrun : w.block.st ≠ .run) (hedge : w.session.variant = .edge)
    (hpolls : env.polls = waiting.map (fun t => (true, t)) ++ (true, now) :: rest)
    (hwaiting : ∀ t ∈ waiting, age t env.startNow ≤ w.block.cfg.ceilE)
    (hlate : w.block.cfg.ceilE < age now env.startNow) :
    ∃ w', readCycle p env w = some (w', .error (some .timeout)) := by
  have hstart : issue (.startE env.startNow) w.block = some (started env.startNow w.block) :=
    issue_of_exec rfl (exec_startE hrun env.startNow)
  have hdecode := calc
    decodeFrame .edge env w.block = pollUntilDone env.polls (started env.startNow w.block) := by
      rw [decodeFrame, hstart, Option.bind_some]
    _ = some (raiseError .timeout (BitVec.signExtend 32 (-3#8)) (started env.startNow w.block)) := by
      rw [hpolls]
      exact pollUntilDone_silent rest rfl phaseLevel_first hwaiting hlate
  have hfailed : Answered w.block.model .failed .timeout
      (raiseError .timeout (BitVec.signExtend 32 (-3#8)) (started env.startNow w.block)) := ⟨rfl, rfl, rfl, by simp⟩
  rw [readCycle_eq, cycleBlock, hedge, hdecode, Option.bind_some, hfailed.issueIfNoError_error nofun,
    Option.bind_some, hfailed.issueIfNoError_error nofun, Option.bind_some, finishRead_of_error hfailed nofun]
  exact ⟨_, rfl⟩

/-- Settles O54: the probe ends in `Timeout`, and only that makes the model `DHT11`. -/
theorem detectionOfASilentLineIsDht11 : Obligations.DetectionOfASilentLineIsDht11 := by
  intro p env s waiting now rest hrun hpolls hwaiting hlate
  obtain ⟨probe, hprobe⟩ := readCycle_silent (p := p) (w := configured (newWorld .dht22 .edge s)) nofun rfl hpolls
    (fun t ht => age_le_iff.mpr (hwaiting t ht)) (lt_age_iff.mpr hlate)
  have hends := probe_ends hprobe
  refine ⟨_, setupAcquired_of_probe hrun hprobe hends.block_ne_run, rfl, rfl, rfl, ?_⟩
  cases hends
  exact ⟨rfl, rfl⟩

/-! ### A transport that is not acquired, the accessors, teardown -/

/-- Settles O57: a `Faulted` session is not `Ready`. -/
theorem failedSetupFaultsTheSession : Obligations.FailedSetupFaultsTheSession := by
  intro p m v env s
  exact ⟨_, rfl, rfl, rfl, rfl, rfl, fun env' => readSession_not_ready p env' nofun⟩

/-- Settles O58: the accessors look at the Reading first, and at the last error when there is one. -/
theorem accessorsReturnTheReading : Obligations.AccessorsReturnTheReading := by
  refine ⟨fun m v => ⟨rfl, rfl⟩, fun h r hreading herr => ⟨?_, ?_⟩⟩
  · rw [sessionHumidity, hreading, Option.map_some, if_pos herr]
  · rw [sessionTemperature, hreading, Option.map_some, if_pos herr]

/-- Settles O59: the block is cleared, and the record is that of no session. -/
theorem teardownClearsAndReleases : Obligations.TeardownClearsAndReleases := by
  intro w hrun
  refine ⟨{ cleared w with session := newSession .auto w.session.variant, line := w.line ++ [.release] }, ?_, rfl, rfl,
    rfl, rfl, rfl, rfl, rfl, fun p env => readSession_not_ready p env nofun⟩
  rw [teardownSession, issueClear_eq hrun, Option.map_some]
  rfl

end Sys2Proof.Machine
end

section
/-! SUPPORT. A read on an SPI bus (R197, R204 of 45_control_and_host.md): it completes whatever the block answers, its
transfer is the sample memory of the decode, and its transmitted pattern is the request of the session's model. -/

namespace Sys2Proof.Machine

/-! ### The cycle completes, and no command of it touches the sample memory -/

theorem SameOutside.refl (s : State) : SameOutside s s := ⟨rfl, rfl, rfl, rfl⟩

theorem SameOutside.trans {s t u : State} (h : SameOutside s t) (h' : SameOutside t u) : SameOutside s u :=
  ⟨h'.cfg.trans h.cfg, h'.mem.trans h.mem, h'.port.trans h.port, h'.epoch.trans h.epoch⟩

/-- A step of the cycle completes, whether or not the command is issued. -/
theorem issueIfNoError_completes {i : Instr} (hwf : i.WellFormed = true) (s : State) :
    ∃ t, issueIfNoError i s = some t ∧ SameOutside s t := by
  unfold issueIfNoError
  split
  · exact issue_completes hwf s
  · exact ⟨s, rfl, SameOutside.refl s⟩

theorem copyReading_completes (s : State) : ∃ t x, copyReading s = some (t, x) ∧ SameOutside s t := by
  obtain ⟨t, hhum, ht⟩ := issue_completes (i := .rd 18) rfl s
  obtain ⟨u, htemp, hu⟩ := issue_completes (i := .rd 19) rfl t
  rw [copyReading, hhum, Option.bind_some, htemp, Option.map_some]
  exact ⟨_, _, rfl, ht.trans hu⟩

theorem finishRead_completes (env : ReadEnv) (w : World) (s : State) :
    ∃ w' r, finishRead env w s = some (w', r) ∧ SameOutside s w'.block := by
  unfold finishRead
  split
  · obtain ⟨t, x, hcopy, ht⟩ := copyReading_completes s
    rw [hcopy, Option.map_some]
    exact ⟨_, _, rfl, ht⟩
  · exact ⟨_, _, rfl, SameOutside.refl s⟩

/-- With a received buffer of the fixed length a read cycle completes, and the buffer is the sample memory at its end. -/
theorem readCycle_sampled_completes (p : HostParams) {env : ReadEnv} {w : World} (hbus : w.session.variant = .sampled)
    (hlen : env.buffer.length = bufferBytes w.block.cfg) :
    ∃ w' r, readCycle p env w = some (w', r) ∧
      SameOutside { w.block with mem := cellsFrom 0 env.buffer } w'.block := by
  have htransfer := present_transfer.mpr ⟨hlen, rfl⟩
  obtain ⟨decoded, hdecode, h1⟩ :=
    issue_completes (i := .decodeS 0) rfl { w.block with mem := cellsFrom 0 env.buffer }
  obtain ⟨checked, hcheck, h2⟩ := issueIfNoError_completes (i := .check) rfl decoded
  obtain ⟨converted, hconvert, h3⟩ := issueIfNoError_completes (i := .convert) rfl checked
  rw [readCycle_eq, cycleBlock, hbus, decodeFrame, htransfer, Option.bind_some, hdecode, Option.bind_some, hcheck,
    Option.bind_some, hconvert, Option.bind_some]
  obtain ⟨w', r, hfinish, h4⟩ := finishRead_completes env
    { w with line := w.line ++ requestSequence p .sampled w.session.model w.block.cfg } converted
  exact ⟨w', r, hfinish, ((h1.trans h2).trans h3).trans h4⟩

/-- A sample of the received buffer, in the order of time (R63, R72 of 20_memory.md). -/
theorem memRead_received {s t : State} {buffer : List Byte} (h : SameOutside { s with mem := cellsFrom 0 buffer } t)
    {a : Nat} (ha : a / 8 < buffer.length) : memRead t a = bufferBit buffer a := by
  rw [memRead_congr h.mem h.epoch, memRead, sampleByte_received s ha]
  rfl

/-! ### The transmitted pattern -/

section
variable {p : HostParams} {c : Params} {a : Nat}

/-- The level the pattern holds at a sample (R196, R204; log 23). -/
theorem bufferBit_requestPattern (m : SensorModel) (ha : a < c.nS) :
    bufferBit (requestPattern p m c) a = decide (requestLow p m * c.fS ≤ a * 1000000) := by
  have hbyte := byteOfSample_lt_bufferBytes ha
  exact (requestPattern_spec p m c).2 a (by omega)

/-- The first sample is inside the request of either model: the low time is positive (D27). -/
theorem bufferBit_requestPattern_zero (hp : p.Ok) (hfS : 0 < c.fS) (hnS : 0 < c.nS) (m : SensorModel) :
    bufferBit (requestPattern p m c) 0 = false := by
  have hlow : 0 < requestLow p m := by cases m <;> simp only [requestLow] <;> omega
  have hpos := Nat.mul_pos hlow hfS
  rw [bufferBit_requestPattern m hnS, decide_eq_false_iff_not]
  omega

/-- Between two instants at least one sample apart a sample is taken, at the latest one sample after the first; times
are in microseconds and in samples, multiplied. -/
theorem exists_sample_between {low high n : Nat} (hgap : low + 1000000 ≤ high) (hfit : low + 1000000 ≤ n * 1000000) :
    ∃ a < n, low ≤ a * 1000000 ∧ a * 1000000 < high :=
  ⟨(low + 999999) / 1000000, by omega, by omega, by omega⟩

/-- Some sample lies after the request of `DHT22` and inside the request of `DHT11`. -/
theorem exists_low_dht11_high_dht22 (hgap : 1000000 ≤ (p.reqLow11 - p.reqLow22) * c.fS)
    (hfit : p.reqLow22 * c.fS + 1000000 ≤ c.nS * 1000000) :
    ∃ a < c.nS, bufferBit (requestPattern p .dht11 c) a = false ∧ bufferBit (requestPattern p .dht22 c) a = true := by
  rw [Nat.sub_mul] at hgap
  obtain ⟨a, ha, hhigh, hlow⟩ := exists_sample_between (high := p.reqLow11 * c.fS) (by omega) hfit
  refine ⟨a, ha, ?_, ?_⟩
  · rw [bufferBit_requestPattern _ ha, decide_eq_false_iff_not]
    exact hlow.not_ge
  · rw [bufferBit_requestPattern _ ha, decide_eq_true_iff]
    exact hhigh

/-- The request of `DHT22` lies inside the request of `DHT11` (D27). -/
theorem low_dht11_of_low_dht22 (hp : p.Ok) (ha : a < c.nS) (h : bufferBit (requestPattern p .dht22 c) a = false) :
    bufferBit (requestPattern p .dht11 c) a = false := by
  rw [bufferBit_requestPattern _ ha, decide_eq_false_iff_not, not_le] at h ⊢
  exact h.trans_le (Nat.mul_le_mul_right _ hp.2.le)

end

/-- A received buffer that shows the request of its cycle begins low (R204, R244 of 70_reset_and_hazards.md). -/
theorem CycleStart.first_sample_low {p : HostParams} {env : ReadEnv} {w : World} {elapsed releaseTime startTime : Nat}
    (h : CycleStart p env w elapsed releaseTime startTime) (hbus : w.session.variant = .sampled) (hp : p.Ok)
    (hfS : 0 < w.block.cfg.fS) (hnS : 0 < w.block.cfg.nS) : bufferBit env.buffer 0 = false := by
  obtain ⟨-, hshows⟩ := h.captureInRequest hbus
  have hbyte := byteOfSample_lt_bufferBytes hnS
  have hinside : 0 < 8 * (requestPattern p w.session.model w.block.cfg).length := by
    rw [(requestPattern_spec p _ _).1]
    omega
  exact hshows 0 hinside (bufferBit_requestPattern_zero hp hfS hnS _)

/-- Settles O60: the cycle completes and keeps the received buffer, its transfer carries the pattern of the model, and
the patterns of the two models are compared sample by sample. -/
theorem sampledReadTransmitsItsRequest : Obligations.SampledReadTransmitsItsRequest := by
  refine ⟨fun p env w hready hbus hlen => ?_,
    fun p c hp _ hgap hfit => ⟨exists_low_dht11_high_dht22 hgap hfit, fun _ => low_dht11_of_low_dht22 hp⟩⟩
  obtain ⟨w', r, hcycle, houtside⟩ := readCycle_sampled_completes p hbus hlen
  have hsample (a : Nat) (ha : a < w.block.cfg.nS) : memRead w'.block a = bufferBit env.buffer a :=
    memRead_received houtside (hlen ▸ byteOfSample_lt_bufferBytes ha)
  have hline := readCycle_line hcycle
  rw [hbus] at hline
  refine ⟨w', r, requestPattern p w.session.model w.block.cfg, (readSession_ready p env hready).trans hcycle, hline,
    (requestPattern_spec p _ _).1, fun a ha => bufferBit_requestPattern _ ha, hsample, ?_⟩
  rintro elapsed releaseTime startTime hp ⟨-, -, hfS, hnS⟩ hstart
  exact (hsample 0 hnS).trans (hstart.first_sample_low hbus hp hfS hnS)

end Sys2Proof.Machine
end

section
/-! SUPPORT. The error model (60_exceptions.md): the commands that enter each error kind (R210, R213, R217), and the
transfer that breaks the transport's contract (R228). -/

namespace Sys2Proof.Machine

/-! ### The error kinds -/

/-- `DECODE.S` leaves `ERR` at `None` (R145 of 42_framer_sampled.md) or ends by `raise Timeout` (R146). -/
theorem finishDecode_err (c : Capture) (s : State) :
    (finishDecode c s).err = .none ∨ (finishDecode c s).err = .timeout ∧ (finishDecode c s).st = .failed := by
  rcases finishDecode_cases c s with ⟨-, heq⟩ | ⟨-, heq⟩ <;> simp [heq]

/-- Settles O52: an effect keeps `ERR`, writes `None`, or is an error entry (R216 of 60_exceptions.md); the error
entries are those of the polls, of `DECODE.S` and of `CHECK`. -/
theorem errorsComeOnlyFromTheirCommands : Obligations.ErrorsComeOnlyFromTheirCommands := by
  intro i s t hexec hchanged
  cases effect_of_exec hexec with
  | rejected | answered | waiting | accepted | converted | modelSet => exact absurd rfl hchanged
  | edge level now => exact absurd (observeEdge_err now s) hchanged
  | cleared | started => exact .inl rfl
  | timedOut level now => exact .inr (.inl ⟨rfl, rfl, .inl ⟨level, now, rfl⟩⟩)
  | mismatched => exact .inr (.inr ⟨rfl, rfl, rfl⟩)
  | decoded p0 =>
    rcases finishDecode_err (decodeCapture s p0.toNat) s with hnone | ⟨htimeout, hfailed⟩
    · exact .inl hnone
    · exact .inr (.inl ⟨htimeout, hfailed, .inr ⟨p0, rfl⟩⟩)

/-! ### A transfer of another length -/

/-- A buffer of another length than the fixed one is refused (R228 of 60_exceptions.md; log 12). -/
theorem applyTransfer_otherLength {buffer : List Byte} {s : State} (hlen : buffer.length ≠ bufferBytes s.cfg) :
    applyTransfer buffer s = .fault .transferLength := if_neg hlen

/-- Settles O39: taking the input leaves the configuration, and so the fixed length. -/
theorem transferOfAnotherLengthFaults : Obligations.TransferOfAnotherLengthFaults := by
  intro s buffer rest hport hlen
  have hother : buffer.length ≠ bufferBytes (takeInput s).cfg := hlen
  rw [step_transfer hport, applyTransfer_otherLength hother]

end Sys2Proof.Machine
end

section
/-! SUPPORT. The port without a command: `rst` at its head, and no input at all (R240 to R242 of
70_reset_and_hazards.md). -/

namespace Sys2Proof.Machine

/-- Settles O5: the step on `rst` looks at no stage, and taking the input leaves what the reset keeps (the
configuration and the model's two counters). -/
theorem resetInputResetsFromEveryStage : Obligations.ResetInputResetsFromEveryStage := by
  intro s rest hport
  rw [step_reset hport, takeInput_of_port hport, applyReset]

/-- Settles O6: the case of `step` for the empty port (log 13). -/
theorem blockWaitsWithNoInput : Obligations.BlockWaitsWithNoInput := by
  intro s hport
  rw [step, hport]

end Sys2Proof.Machine
end
